-- ==== Sys2Proof/Word.lean ====
section
/-! DEFINITION. The word type of the core: every register, buffer cell and port moves one unsigned byte
(00_scope.md R9, 20_memory.md R94). -/

namespace Sys2Proof

/-- A byte: 8 bits, bit 0 the least significant (00_scope.md R9). -/
abbrev Byte := BitVec 8

end Sys2Proof
end

