-- ==== Sys2Proof/Config.lean ====
section
/-! DEFINITION. What a model instance fixes: the parameters of 00_scope.md R8 that the spec leaves open, with
their defaults, and the free values, which have no body so that nothing can be proved of them. -/

namespace Sys2Proof

/-- `CMD_WHILE_BUSY`: what a command other than FORCE INTERRUPT does during a transfer (43_fdc_commands.md R341). -/
inductive CmdWhileBusy where
  | fault
  | abortAndExecute
  deriving DecidableEq, Repr

/-- `INDEX_BIT`: status bit 1 after a type I command (43_fdc_commands.md R345). -/
inductive IndexBit where
  /-- 1 iff an image is attached (the default) -/
  | attached
  /-- a free draw for each type I command -/
  | drawn
  deriving DecidableEq, Repr

/-- `SAMPLE_PACKING`: the order of packed samples within a byte (20_memory.md R90). The spec names only the
default; the other order is the mirror image (DESIGN CHOICE, notes/assumptions/23.md). -/
inductive SamplePacking where
  | msbFirst
  | lsbFirst
  deriving DecidableEq, Repr

/-- One row of `FDC_GEOMETRY_BY_SIZE`: an image length and the geometry it stands for (42_fdc_ports.md R322). -/
structure GeometryRow where
  length  : Nat
  tracks  : Nat
  sides   : Nat
  sectors : Nat
  deriving DecidableEq, Repr

/-- The default size-to-geometry table (42_fdc_ports.md R322). -/
def defaultGeometryBySize : List GeometryRow :=
  [⟨163840, 40, 1, 8⟩, ⟨184320, 40, 1, 9⟩, ⟨327680, 40, 2, 8⟩, ⟨368640, 40, 2, 9⟩,
   ⟨409600, 80, 1, 10⟩, ⟨737280, 80, 2, 9⟩, ⟨819200, 80, 2, 10⟩, ⟨1474560, 80, 2, 18⟩]

/-- The default `TRACK_SIZE` of tracks 1 to 42 (10_state.md R23). -/
def defaultTrackSizes : List Nat :=
  List.replicate 17 7692 ++ List.replicate 7 7142 ++ List.replicate 6 6666 ++ List.replicate 12 6250

/-- The default `SPT` of tracks 1 to 42 (10_state.md R22). -/
def defaultSectorsPerTrack : List Nat :=
  List.replicate 17 21 ++ List.replicate 7 19 ++ List.replicate 6 18 ++ List.replicate 12 17

/-- The open parameters of 00_scope.md R8 that are plain data, those it marks *decision* among them. They are fixed for the life of an instance
(10_state.md R29): no operation changes them. -/
structure Params where
  /-- `IS_WD1773` (10_state.md R29) -/
  isWD1773 : Bool := false
  /-- `BUSY_HACK` (10_state.md R29, 42_fdc_ports.md R308) -/
  busyFlagHack : Bool := false
  cmdWhileBusy : CmdWhileBusy := .fault
  indexBit : IndexBit := .attached
  geometryBySize : List GeometryRow := defaultGeometryBySize
  samplePacking : SamplePacking := .msbFirst
  /-- whether a `SOUND_FILTER` is supplied; when none is, the filter is the identity (44_tape.md R455) -/
  soundFilterSupplied : Bool := false
  /-- `TRACK_SIZE`, of tracks 1 to 42 (10_state.md R23) -/
  trackSizes : List Nat := defaultTrackSizes
  /-- `SPT`, of tracks 1 to 42 (10_state.md R22) -/
  sectorsPerTrack : List Nat := defaultSectorsPerTrack
  /-- `HEADER_GAP` (30_encoding.md R127) -/
  headerGap : Nat := 9
  /-- `TAIL_GAP`, the sector counts with a gap of their own (30_encoding.md R128) -/
  tailGaps : List (Nat × Nat) := [(21, 9), (19, 19), (18, 13), (17, 10)]
  /-- `TAIL_GAP` of every other sector count (30_encoding.md R128) -/
  tailGapOther : Nat := 9
  /-- `DISKID_INIT` (10_state.md R26) -/
  diskIdInit : Byte := 0
  /-- `HEAD_MAX` (10_state.md R30) -/
  headMax : Byte := 255
  deriving DecidableEq, Repr

/-- The frames an audio container gives (44_tape.md R450): each frame holds one sample per channel, a number in
-1..1. Samples are rationals (DESIGN CHOICE, notes/assumptions/11.md). -/
structure Sound where
  nChannels  : Nat
  sampleRate : Nat
  frames     : List (List Rat)
  deriving DecidableEq, Repr

namespace Config

/-- `HOST_IO`, the host file-system fault oracle: whether the n-th free draw fails (20_memory.md R84). FREE VALUE
(notes/assumptions/5.md). -/
opaque hostIoFails : Nat → Bool

/-- The n-th free draw of the index pulse, for `IndexBit.drawn` (43_fdc_commands.md R345). FREE VALUE
(notes/assumptions/9.md). -/
opaque indexPulse : Nat → Bool

/-- `SOUND_FILTER`: the i-th sample of the filtered sequence (44_tape.md R455). FREE VALUE
(notes/assumptions/10.md). -/
opaque soundFilter : List Rat → Nat → Rat

/-- What the container codec reads from the bytes of a file: nothing if the container is unreadable
(44_tape.md R450; the codec is out of scope, 00_scope.md R5). FREE VALUE (notes/assumptions/11.md). -/
opaque readContainer : List Byte → Option Sound

/-- The bytes of a file that holds an audio container (20_memory.md R85: the container is opaque). FREE VALUE
(notes/assumptions/11.md). -/
opaque containerBytes : Sound → List Byte

end Config

end Sys2Proof
end

