-- ==== Sys2Proof/Syntax.lean ====
section
/-! DEFINITION. The instructions of spec/opcode_table.json, one constructor per row, and the host calls that
encode them (00_scope.md R6: one step is one complete call of one interface operation). -/

namespace Sys2Proof

/-- The three tape formats (10_state.md R35). -/
inductive TapeFormat where
  | native
  | legacyTap
  | soundFile
  deriving DecidableEq, Repr

/-- The open modes of a tape (10_state.md R36). -/
inductive TapeMode where
  | readOnly
  | readWrite
  | create
  deriving DecidableEq, Repr

/-- The operands of `openTape` (44_tape.md R400). A call carries all of them; each format reads its own
(DESIGN CHOICE, notes/assumptions/2.md). -/
structure OpenArgs where
  fmt           : TapeFormat
  store         : Nat
  mode          : TapeMode
  requestedBits : Nat
  sampleRate    : Nat
  fileBits      : Nat
  channel       : Nat
  invert        : Bool
  filterOn      : Bool
  deriving DecidableEq, Repr

/-- The instructions. An FDC command row stands for the bus write of that command byte (43_fdc_commands.md R340). -/
inductive Instr where
  -- FDC commands (30_encoding.md R141 to R144)
  | restore (h v : Bool) (r : BitVec 2)
  | seek (h v : Bool) (r : BitVec 2)
  | step (u h v : Bool) (r : BitVec 2)
  | stepIn (u h v : Bool) (r : BitVec 2)
  | stepOut (u h v : Bool) (r : BitVec 2)
  | rdsec (m hs e pc b0 : Bool)
  | wrsec (m hs e pc a0 : Bool)
  | rdaddr (hs e b1 b0 : Bool)
  | forceint (i3 i2 i1 i0 : Bool)
  | rdtrk (hs e b1 b0 : Bool)
  | wrtrk (hs e p b0 : Bool)
  -- FDC port accesses (30_encoding.md R150)
  | st
  | cmd (v : Byte)
  | rtr
  | wtr (v : Byte)
  | rsr
  | wsr (v : Byte)
  | rdr
  | wdr (v : Byte)
  -- GCR codec (30_encoding.md R170, ids 0x01 to 0x04)
  | gcrEncodeFourBytes (b0 b1 b2 b3 : Byte)
  | gcrDecodeFourBytes (g0 g1 g2 g3 g4 : Byte)
  | gcrEncodeTrack (trackNum : Byte) (nSectors nBytes : Nat)
  | gcrDecodeTrack (trackNum : Byte) (nSectors nBytes : Nat)
  -- track buffer manager (ids 0x10 to 0x19)
  | setImageFile (file : Option Nat) (readOnly : Bool)
  | readTrack (trackNum : Int)
  | flushTrack (trackNum : Int)
  | setCurrentTrack (trackNum : Int)
  | gcrReadByte (i : Nat)
  | gcrWriteByte (i : Nat) (v : Byte)
  | getTrackInfo
  | setSectorErrorCode (s : Nat) (code : Byte)
  | getSectorErrorCode (s : Nat)
  | closeD64
  -- floppy controller (ids 0x20 to 0x2F)
  | writeCommandRegister (v : Byte)
  | readStatusRegister
  | writeTrackRegister (v : Byte)
  | readTrackRegister
  | writeSectorRegister (v : Byte)
  | readSectorRegister
  | writeDataRegister (v : Byte)
  | readDataRegister
  | peekRegister (a : BitVec 2)
  | getHeadPosition
  | getInterruptRequest
  | getDataRequest
  | setDiskImageFile (file : Option Nat) (readOnly : Bool) (nTracks nSides nSectorsPerTrack : Nat)
  | setSide (h : Byte)
  | resetFdc
  | closeFdc
  -- tape deck (ids 0x30 to 0x3E)
  | openTape (a : OpenArgs)
  | play
  | record
  | stop
  | setIsMotorOn (b : Bool)
  | runOneSample
  | getInputSignal
  | setOutputSignal (v : Byte)
  | tapeSeek (t : Rat)
  | seekToCuePoint (forward : Bool) (maxSkipSeconds : Rat)
  | addCuePoint
  | deleteNearestCuePoint
  | deleteAllCuePoints
  | getTapeInfo
  | closeTape
  deriving DecidableEq, Repr

/-- The three encodings of spec/opcode_table.json (its "format" fields): the command byte of 30_encoding.md R140,
the port access of R150, the operation id of R170. Their bit patterns overlap, so a call says which it is. -/
inductive CallFormat where
  | fdcCommand
  | fdcPort
  | hostOp
  deriving DecidableEq, Repr

/-- One call of the host: its format and its bytes, the opcode byte first (30_encoding.md R170). -/
structure HostCall where
  format : CallFormat
  bytes  : List Byte
  deriving DecidableEq, Repr

end Sys2Proof
end

