-- ==== Sys2Proof/WellFormed.lean ====
section
/-! DEFINITION. Which instructions have an encoding: each number fits the bytes that carry it
(the argument formats are the model's, notes/assumptions/2.md). -/

namespace Sys2Proof

/-- A natural number operand fits its four bytes. -/
abbrev fitsNat (n : Nat) : Prop := n < 2 ^ 32

/-- A track number operand fits four bytes of two's complement. -/
abbrev fitsInt (t : Int) : Prop := -2 ^ 31 ≤ t ∧ t < 2 ^ 31

/-- A time operand fits eight bytes of numerator and four of denominator. -/
abbrev fitsSeconds (t : Rat) : Prop := -2 ^ 63 ≤ t.num ∧ t.num < 2 ^ 63 ∧ t.den ≤ 2 ^ 32

/-- The operands of `openTape` fit their bytes. -/
abbrev OpenArgs.wellFormed (a : OpenArgs) : Prop :=
  fitsNat a.store ∧ fitsNat a.requestedBits ∧ fitsNat a.sampleRate ∧ fitsNat a.fileBits ∧ fitsNat a.channel

/-- The instruction has an encoding. -/
def Instr.wellFormed : Instr → Bool
  | .restore _ _ _ => true
  | .seek _ _ _ => true
  | .step _ _ _ _ => true
  | .stepIn _ _ _ _ => true
  | .stepOut _ _ _ _ => true
  | .rdsec _ _ _ _ _ => true
  | .wrsec _ _ _ _ _ => true
  | .rdaddr _ _ _ _ => true
  | .forceint _ _ _ _ => true
  | .rdtrk _ _ _ _ => true
  | .wrtrk _ _ _ _ => true
  | .st => true
  | .cmd _ => true
  | .rtr => true
  | .wtr _ => true
  | .rsr => true
  | .wsr _ => true
  | .rdr => true
  | .wdr _ => true
  | .gcrEncodeFourBytes _ _ _ _ => true
  | .gcrDecodeFourBytes _ _ _ _ _ => true
  | .gcrEncodeTrack _ nSectors nBytes => decide (fitsNat nSectors ∧ fitsNat nBytes)
  | .gcrDecodeTrack _ nSectors nBytes => decide (fitsNat nSectors ∧ fitsNat nBytes)
  | .setImageFile file _ => decide (fitsNat (file.getD 0))
  | .readTrack t => decide (fitsInt t)
  | .flushTrack t => decide (fitsInt t)
  | .setCurrentTrack t => decide (fitsInt t)
  | .gcrReadByte i => decide (fitsNat i)
  | .gcrWriteByte i _ => decide (fitsNat i)
  | .getTrackInfo => true
  | .setSectorErrorCode s _ => decide (fitsNat s)
  | .getSectorErrorCode s => decide (fitsNat s)
  | .closeD64 => true
  | .writeCommandRegister _ => true
  | .readStatusRegister => true
  | .writeTrackRegister _ => true
  | .readTrackRegister => true
  | .writeSectorRegister _ => true
  | .readSectorRegister => true
  | .writeDataRegister _ => true
  | .readDataRegister => true
  | .peekRegister _ => true
  | .getHeadPosition => true
  | .getInterruptRequest => true
  | .getDataRequest => true
  | .setDiskImageFile file _ nTracks nSides nSectors =>
      decide (fitsNat (file.getD 0) ∧ fitsNat nTracks ∧ fitsNat nSides ∧ fitsNat nSectors)
  | .setSide _ => true
  | .resetFdc => true
  | .closeFdc => true
  | .openTape a => decide a.wellFormed
  | .play => true
  | .record => true
  | .stop => true
  | .setIsMotorOn _ => true
  | .runOneSample => true
  | .getInputSignal => true
  | .setOutputSignal _ => true
  | .tapeSeek t => decide (fitsSeconds t)
  | .seekToCuePoint _ t => decide (fitsSeconds t)
  | .addCuePoint => true
  | .deleteNearestCuePoint => true
  | .deleteAllCuePoints => true
  | .getTapeInfo => true
  | .closeTape => true

end Sys2Proof
end

