-- ==== Sys2Proof/Decode.lean ====
section
/-! DEFINITION. The decoder, total on any call, rejecting by name, and the encoder, both written from the tables of
30_encoding.md R140 to R144 (commands), R150 (ports) and R170 (operation ids). The argument bytes after an
operation id are the model's (DESIGN CHOICE, notes/assumptions/2.md): numbers most significant byte first. -/

namespace Sys2Proof

/-- Why a call has no meaning. -/
inductive DecodeError where
  /-- the call has no opcode byte -/
  | emptyCall
  /-- the byte is no 3-bit port access (30_encoding.md R150) -/
  | unknownPort (p : Byte)
  /-- a port write without its data byte -/
  | missingData (p : Byte)
  /-- the operation id is not in 30_encoding.md R170 -/
  | unknownOperation (id : Byte)
  /-- an argument is missing or outside its encoding (a Bool other than 00 or 01, a format or mode above 02) -/
  | badArguments (id : Byte)
  deriving DecidableEq, Repr

/-! ### Bytes and numbers -/

/-- The number whose bytes are given most significant first. -/
def beNat (bs : List Byte) : Nat := bs.foldl (fun n b => n * 256 + b.toNat) 0

/-- The low `k` bytes of `n`, most significant first. -/
def beBytes : Nat → Nat → List Byte
  | 0, _ => []
  | k + 1, n => beBytes k (n / 256) ++ [BitVec.ofNat 8 n]

/-- The low `k` bytes of `n`, least significant first. -/
def leBytes : Nat → Nat → List Byte
  | 0, _ => []
  | k + 1, n => BitVec.ofNat 8 n :: leBytes k (n / 256)

/-! ### Reading the arguments of a call -/

/-- Take one byte. -/
def takeByte : List Byte → Option (Byte × List Byte)
  | [] => none
  | b :: bs => some (b, bs)

/-- Take a number of `k` bytes. -/
def takeNat (k : Nat) (bs : List Byte) : Option (Nat × List Byte) :=
  if k ≤ bs.length then some (beNat (bs.take k), bs.drop k) else none

/-- Take a two's complement number of four bytes. -/
def takeInt (bs : List Byte) : Option (Int × List Byte) :=
  match takeNat 4 bs with
  | some (n, rest) => some ((BitVec.ofNat 32 n).toInt, rest)
  | none => none

/-- Take a Bool: 00 or 01 (95_test_vectors.md section 3). -/
def takeBool : List Byte → Option (Bool × List Byte)
  | [] => none
  | b :: bs => if b = 0x00#8 then some (false, bs) else if b = 0x01#8 then some (true, bs) else none

/-- Take a store or none: a presence byte and a store id. -/
def takeFile (bs : List Byte) : Option (Option Nat × List Byte) :=
  match takeBool bs with
  | some (present, rest) =>
    match takeNat 4 rest with
    | some (n, rest') => some (if present then some n else none, rest')
    | none => none
  | none => none

/-- Take a time in seconds: a two's complement numerator of eight bytes, then the denominator less one in four. -/
def takeSeconds (bs : List Byte) : Option (Rat × List Byte) :=
  match takeNat 8 bs with
  | some (n, rest) =>
    match takeNat 4 rest with
    | some (d, rest') => some (mkRat (BitVec.ofNat 64 n).toInt (d + 1), rest')
    | none => none
  | none => none

/-- Take a tape format: 00 Native, 01 LegacyTap, 02 SoundFile (95_test_vectors.md section 3). -/
def takeFormat : List Byte → Option (TapeFormat × List Byte)
  | [] => none
  | b :: bs =>
    if b = 0x00#8 then some (.native, bs)
    else if b = 0x01#8 then some (.legacyTap, bs)
    else if b = 0x02#8 then some (.soundFile, bs)
    else none

/-- Take an open mode: 00 ReadOnly, 01 ReadWrite, 02 Create (95_test_vectors.md section 3). -/
def takeMode : List Byte → Option (TapeMode × List Byte)
  | [] => none
  | b :: bs =>
    if b = 0x00#8 then some (.readOnly, bs)
    else if b = 0x01#8 then some (.readWrite, bs)
    else if b = 0x02#8 then some (.create, bs)
    else none

/-- The operands of `openTape`, in the order of 30_encoding.md R170. -/
def takeOpenArgs (bs : List Byte) : Option OpenArgs := do
  let (fmt, bs) ← takeFormat bs
  let (store, bs) ← takeNat 4 bs
  let (mode, bs) ← takeMode bs
  let (requestedBits, bs) ← takeNat 4 bs
  let (sampleRate, bs) ← takeNat 4 bs
  let (fileBits, bs) ← takeNat 4 bs
  let (channel, bs) ← takeNat 4 bs
  let (invert, bs) ← takeBool bs
  let (filterOn, _) ← takeBool bs
  some { fmt, store, mode, requestedBits, sampleRate, fileBits, channel, invert, filterOn }

/-! ### Argument parsers by shape -/

def noArgs (i : Instr) (_ : List Byte) : Option Instr := some i

def byteArg (f : Byte → Instr) (bs : List Byte) : Option Instr := do
  let (v, _) ← takeByte bs
  some (f v)

def boolArg (f : Bool → Instr) (bs : List Byte) : Option Instr := do
  let (v, _) ← takeBool bs
  some (f v)

def natArg (f : Nat → Instr) (bs : List Byte) : Option Instr := do
  let (v, _) ← takeNat 4 bs
  some (f v)

def intArg (f : Int → Instr) (bs : List Byte) : Option Instr := do
  let (v, _) ← takeInt bs
  some (f v)

def natByteArgs (f : Nat → Byte → Instr) (bs : List Byte) : Option Instr := do
  let (n, bs) ← takeNat 4 bs
  let (v, _) ← takeByte bs
  some (f n v)

def trackArgs (f : Byte → Nat → Nat → Instr) (bs : List Byte) : Option Instr := do
  let (t, bs) ← takeByte bs
  let (n, bs) ← takeNat 4 bs
  let (m, _) ← takeNat 4 bs
  some (f t n m)

def imageArgs (bs : List Byte) : Option Instr := do
  let (file, bs) ← takeFile bs
  let (readOnly, _) ← takeBool bs
  some (.setImageFile file readOnly)

def diskImageArgs (bs : List Byte) : Option Instr := do
  let (file, bs) ← takeFile bs
  let (readOnly, bs) ← takeBool bs
  let (t, bs) ← takeNat 4 bs
  let (h, bs) ← takeNat 4 bs
  let (n, _) ← takeNat 4 bs
  some (.setDiskImageFile file readOnly t h n)

def fourBytesArgs : List Byte → Option Instr
  | b0 :: b1 :: b2 :: b3 :: _ => some (.gcrEncodeFourBytes b0 b1 b2 b3)
  | _ => none

def fiveBytesArgs : List Byte → Option Instr
  | g0 :: g1 :: g2 :: g3 :: g4 :: _ => some (.gcrDecodeFourBytes g0 g1 g2 g3 g4)
  | _ => none

def openTapeArgs (bs : List Byte) : Option Instr := do
  let a ← takeOpenArgs bs
  some (.openTape a)

def secondsArg (bs : List Byte) : Option Instr := do
  let (t, _) ← takeSeconds bs
  some (.tapeSeek t)

def cueSeekArgs (bs : List Byte) : Option Instr := do
  let (forward, bs) ← takeBool bs
  let (t, _) ← takeSeconds bs
  some (.seekToCuePoint forward t)

/-- The operation ids of 30_encoding.md R170, each with the reader of its arguments. -/
def hostOpTable : List (Byte × (List Byte → Option Instr)) :=
  [ (0x01#8, fourBytesArgs),
    (0x02#8, fiveBytesArgs),
    (0x03#8, trackArgs .gcrEncodeTrack),
    (0x04#8, trackArgs .gcrDecodeTrack),
    (0x10#8, imageArgs),
    (0x11#8, intArg .readTrack),
    (0x12#8, intArg .flushTrack),
    (0x13#8, intArg .setCurrentTrack),
    (0x14#8, natArg .gcrReadByte),
    (0x15#8, natByteArgs .gcrWriteByte),
    (0x16#8, noArgs .getTrackInfo),
    (0x17#8, natByteArgs .setSectorErrorCode),
    (0x18#8, natArg .getSectorErrorCode),
    (0x19#8, noArgs .closeD64),
    (0x20#8, byteArg .writeCommandRegister),
    (0x21#8, noArgs .readStatusRegister),
    (0x22#8, byteArg .writeTrackRegister),
    (0x23#8, noArgs .readTrackRegister),
    (0x24#8, byteArg .writeSectorRegister),
    (0x25#8, noArgs .readSectorRegister),
    (0x26#8, byteArg .writeDataRegister),
    (0x27#8, noArgs .readDataRegister),
    (0x28#8, byteArg fun a => .peekRegister (a.extractLsb' 0 2)),
    (0x29#8, noArgs .getHeadPosition),
    (0x2A#8, noArgs .getInterruptRequest),
    (0x2B#8, noArgs .getDataRequest),
    (0x2C#8, diskImageArgs),
    (0x2D#8, byteArg .setSide),
    (0x2E#8, noArgs .resetFdc),
    (0x2F#8, noArgs .closeFdc),
    (0x30#8, openTapeArgs),
    (0x31#8, noArgs .play),
    (0x32#8, noArgs .record),
    (0x33#8, noArgs .stop),
    (0x34#8, boolArg .setIsMotorOn),
    (0x35#8, noArgs .runOneSample),
    (0x36#8, noArgs .getInputSignal),
    (0x37#8, byteArg .setOutputSignal),
    (0x38#8, secondsArg),
    (0x39#8, cueSeekArgs),
    (0x3A#8, noArgs .addCuePoint),
    (0x3B#8, noArgs .deleteNearestCuePoint),
    (0x3C#8, noArgs .deleteAllCuePoints),
    (0x3D#8, noArgs .getTapeInfo),
    (0x3E#8, noArgs .closeTape) ]

/-! ### Decoding -/

/-- The command a byte is: every byte is exactly one (30_encoding.md R140 to R145). -/
def decodeCommand (c : Byte) : Instr :=
  let b := fun k => c.getLsbD k
  let r := c.extractLsb' 0 2
  if c &&& 0xF0#8 = 0x00#8 then .restore (b 3) (b 2) r
  else if c &&& 0xF0#8 = 0x10#8 then .seek (b 3) (b 2) r
  else if c &&& 0xE0#8 = 0x20#8 then .step (b 4) (b 3) (b 2) r
  else if c &&& 0xE0#8 = 0x40#8 then .stepIn (b 4) (b 3) (b 2) r
  else if c &&& 0xE0#8 = 0x60#8 then .stepOut (b 4) (b 3) (b 2) r
  else if c &&& 0xE0#8 = 0x80#8 then .rdsec (b 4) (b 3) (b 2) (b 1) (b 0)
  else if c &&& 0xE0#8 = 0xA0#8 then .wrsec (b 4) (b 3) (b 2) (b 1) (b 0)
  else if c &&& 0xF0#8 = 0xC0#8 then .rdaddr (b 3) (b 2) (b 1) (b 0)
  else if c &&& 0xF0#8 = 0xD0#8 then .forceint (b 3) (b 2) (b 1) (b 0)
  else if c &&& 0xF0#8 = 0xE0#8 then .rdtrk (b 3) (b 2) (b 1) (b 0)
  else .wrtrk (b 3) (b 2) (b 1) (b 0)

/-- The port access a 3-bit value `A1 A0 W` and its data byte are (30_encoding.md R150). -/
def decodePort (p : Byte) (args : List Byte) : Except DecodeError Instr :=
  let write := fun (f : Byte → Instr) =>
    match args with
    | [] => .error (.missingData p)
    | v :: _ => .ok (f v)
  if p = 0x00#8 then .ok .st
  else if p = 0x01#8 then write .cmd
  else if p = 0x02#8 then .ok .rtr
  else if p = 0x03#8 then write .wtr
  else if p = 0x04#8 then .ok .rsr
  else if p = 0x05#8 then write .wsr
  else if p = 0x06#8 then .ok .rdr
  else if p = 0x07#8 then write .wdr
  else .error (.unknownPort p)

/-- The operation an id and its arguments are (30_encoding.md R170). -/
def decodeHostOp (id : Byte) (args : List Byte) : Except DecodeError Instr :=
  match hostOpTable.lookup id with
  | none => .error (.unknownOperation id)
  | some reader =>
    match reader args with
    | none => .error (.badArguments id)
    | some i => .ok i

/-- The instruction a call is. Bytes after the last argument are ignored (DESIGN CHOICE, notes/assumptions/4.md). -/
def decode (c : HostCall) : Except DecodeError Instr :=
  match c.bytes with
  | [] => .error .emptyCall
  | op :: args =>
    match c.format with
    | .fdcCommand => .ok (decodeCommand op)
    | .fdcPort => decodePort op args
    | .hostOp => decodeHostOp op args

/-! ### Encoding -/

/-- Bit `k` of a command byte. -/
def bitAt (b : Bool) (k : Nat) : Byte := if b then 1#8 <<< k else 0#8

/-- The command byte with the given match value and low four bits (30_encoding.md R141 to R144). -/
def commandByte (m : Byte) (b3 b2 b1 b0 : Bool) : Byte :=
  m ||| bitAt b3 3 ||| bitAt b2 2 ||| bitAt b1 1 ||| bitAt b0 0

def boolByte (b : Bool) : Byte := if b then 0x01#8 else 0x00#8

def intBytes (t : Int) : List Byte := beBytes 4 (BitVec.ofInt 32 t).toNat

def secondsBytes (t : Rat) : List Byte :=
  beBytes 8 (BitVec.ofInt 64 t.num).toNat ++ beBytes 4 (t.den - 1)

def fileBytes (file : Option Nat) : List Byte := boolByte file.isSome :: beBytes 4 (file.getD 0)

def formatByte : TapeFormat → Byte
  | .native => 0x00#8
  | .legacyTap => 0x01#8
  | .soundFile => 0x02#8

def modeByte : TapeMode → Byte
  | .readOnly => 0x00#8
  | .readWrite => 0x01#8
  | .create => 0x02#8

def openArgsBytes (a : OpenArgs) : List Byte :=
  [formatByte a.fmt] ++ beBytes 4 a.store ++ [modeByte a.mode] ++ beBytes 4 a.requestedBits
    ++ beBytes 4 a.sampleRate ++ beBytes 4 a.fileBits ++ beBytes 4 a.channel
    ++ [boolByte a.invert, boolByte a.filterOn]

def commandCall (c : Byte) : HostCall := ⟨.fdcCommand, [c]⟩
def portCall (p : Byte) (data : List Byte) : HostCall := ⟨.fdcPort, p :: data⟩
def opCall (id : Byte) (args : List Byte) : HostCall := ⟨.hostOp, id :: args⟩

/-- The byte of RESTORE (30_encoding.md R141). -/
def restoreByte (h v : Bool) (r : BitVec 2) : Byte := commandByte 0x00#8 h v (r.getLsbD 1) (r.getLsbD 0)
/-- The byte of SEEK (30_encoding.md R141). -/
def seekByte (h v : Bool) (r : BitVec 2) : Byte := commandByte 0x10#8 h v (r.getLsbD 1) (r.getLsbD 0)
/-- The byte of STEP (30_encoding.md R141). -/
def stepByte (u h v : Bool) (r : BitVec 2) : Byte :=
  commandByte (0x20#8 ||| bitAt u 4) h v (r.getLsbD 1) (r.getLsbD 0)
/-- The byte of STEP IN (30_encoding.md R141). -/
def stepInByte (u h v : Bool) (r : BitVec 2) : Byte :=
  commandByte (0x40#8 ||| bitAt u 4) h v (r.getLsbD 1) (r.getLsbD 0)
/-- The byte of STEP OUT (30_encoding.md R141). -/
def stepOutByte (u h v : Bool) (r : BitVec 2) : Byte :=
  commandByte (0x60#8 ||| bitAt u 4) h v (r.getLsbD 1) (r.getLsbD 0)
/-- The byte of READ SECTOR (30_encoding.md R142). -/
def rdsecByte (m hs e pc b0 : Bool) : Byte := commandByte (0x80#8 ||| bitAt m 4) hs e pc b0
/-- The byte of WRITE SECTOR (30_encoding.md R142). -/
def wrsecByte (m hs e pc a0 : Bool) : Byte := commandByte (0xA0#8 ||| bitAt m 4) hs e pc a0
/-- The byte of READ ADDRESS (30_encoding.md R143). -/
def rdaddrByte (hs e b1 b0 : Bool) : Byte := commandByte 0xC0#8 hs e b1 b0
/-- The byte of FORCE INTERRUPT (30_encoding.md R144). -/
def forceintByte (i3 i2 i1 i0 : Bool) : Byte := commandByte 0xD0#8 i3 i2 i1 i0
/-- The byte of READ TRACK (30_encoding.md R143). -/
def rdtrkByte (hs e b1 b0 : Bool) : Byte := commandByte 0xE0#8 hs e b1 b0
/-- The byte of WRITE TRACK (30_encoding.md R143). -/
def wrtrkByte (hs e p b0 : Bool) : Byte := commandByte 0xF0#8 hs e p b0

/-- The call that encodes an instruction. -/
def encode : Instr → HostCall
  | .restore h v r => commandCall (restoreByte h v r)
  | .seek h v r => commandCall (seekByte h v r)
  | .step u h v r => commandCall (stepByte u h v r)
  | .stepIn u h v r => commandCall (stepInByte u h v r)
  | .stepOut u h v r => commandCall (stepOutByte u h v r)
  | .rdsec m hs e pc b0 => commandCall (rdsecByte m hs e pc b0)
  | .wrsec m hs e pc a0 => commandCall (wrsecByte m hs e pc a0)
  | .rdaddr hs e b1 b0 => commandCall (rdaddrByte hs e b1 b0)
  | .forceint i3 i2 i1 i0 => commandCall (forceintByte i3 i2 i1 i0)
  | .rdtrk hs e b1 b0 => commandCall (rdtrkByte hs e b1 b0)
  | .wrtrk hs e p b0 => commandCall (wrtrkByte hs e p b0)
  | .st => portCall 0x00#8 []
  | .cmd v => portCall 0x01#8 [v]
  | .rtr => portCall 0x02#8 []
  | .wtr v => portCall 0x03#8 [v]
  | .rsr => portCall 0x04#8 []
  | .wsr v => portCall 0x05#8 [v]
  | .rdr => portCall 0x06#8 []
  | .wdr v => portCall 0x07#8 [v]
  | .gcrEncodeFourBytes b0 b1 b2 b3 => opCall 0x01#8 [b0, b1, b2, b3]
  | .gcrDecodeFourBytes g0 g1 g2 g3 g4 => opCall 0x02#8 [g0, g1, g2, g3, g4]
  | .gcrEncodeTrack t n m => opCall 0x03#8 (t :: beBytes 4 n ++ beBytes 4 m)
  | .gcrDecodeTrack t n m => opCall 0x04#8 (t :: beBytes 4 n ++ beBytes 4 m)
  | .setImageFile file readOnly => opCall 0x10#8 (fileBytes file ++ [boolByte readOnly])
  | .readTrack t => opCall 0x11#8 (intBytes t)
  | .flushTrack t => opCall 0x12#8 (intBytes t)
  | .setCurrentTrack t => opCall 0x13#8 (intBytes t)
  | .gcrReadByte i => opCall 0x14#8 (beBytes 4 i)
  | .gcrWriteByte i v => opCall 0x15#8 (beBytes 4 i ++ [v])
  | .getTrackInfo => opCall 0x16#8 []
  | .setSectorErrorCode s code => opCall 0x17#8 (beBytes 4 s ++ [code])
  | .getSectorErrorCode s => opCall 0x18#8 (beBytes 4 s)
  | .closeD64 => opCall 0x19#8 []
  | .writeCommandRegister v => opCall 0x20#8 [v]
  | .readStatusRegister => opCall 0x21#8 []
  | .writeTrackRegister v => opCall 0x22#8 [v]
  | .readTrackRegister => opCall 0x23#8 []
  | .writeSectorRegister v => opCall 0x24#8 [v]
  | .readSectorRegister => opCall 0x25#8 []
  | .writeDataRegister v => opCall 0x26#8 [v]
  | .readDataRegister => opCall 0x27#8 []
  | .peekRegister a => opCall 0x28#8 [a.setWidth 8]
  | .getHeadPosition => opCall 0x29#8 []
  | .getInterruptRequest => opCall 0x2A#8 []
  | .getDataRequest => opCall 0x2B#8 []
  | .setDiskImageFile file readOnly t h n =>
      opCall 0x2C#8 (fileBytes file ++ [boolByte readOnly] ++ beBytes 4 t ++ beBytes 4 h ++ beBytes 4 n)
  | .setSide h => opCall 0x2D#8 [h]
  | .resetFdc => opCall 0x2E#8 []
  | .closeFdc => opCall 0x2F#8 []
  | .openTape a => opCall 0x30#8 (openArgsBytes a)
  | .play => opCall 0x31#8 []
  | .record => opCall 0x32#8 []
  | .stop => opCall 0x33#8 []
  | .setIsMotorOn b => opCall 0x34#8 [boolByte b]
  | .runOneSample => opCall 0x35#8 []
  | .getInputSignal => opCall 0x36#8 []
  | .setOutputSignal v => opCall 0x37#8 [v]
  | .tapeSeek t => opCall 0x38#8 (secondsBytes t)
  | .seekToCuePoint forward t => opCall 0x39#8 (boolByte forward :: secondsBytes t)
  | .addCuePoint => opCall 0x3A#8 []
  | .deleteNearestCuePoint => opCall 0x3B#8 []
  | .deleteAllCuePoints => opCall 0x3C#8 []
  | .getTapeInfo => opCall 0x3D#8 []
  | .closeTape => opCall 0x3E#8 []

/-! ### A word of the opcode table -/

/-- The most bytes an encoded call has (`setDiskImageFile` has 19, `openTape` 25). -/
def maxCallBytes : Nat := 25

/-- The format a bare byte of the opcode table is read in. The table's three formats overlap and a word does not say
which it is: a word of at most three bits is a port access, a listed operation id is that operation, another value
below 8 is a port access, and every other byte is a command (DESIGN CHOICE, notes/assumptions/3.md). -/
def tableFormat (nbits : Nat) (op : Byte) : CallFormat :=
  if nbits ≤ 3 then .fdcPort
  else if (hostOpTable.lookup op).isSome then .hostOp
  else if op.toNat < 8 then .fdcPort
  else .fdcCommand

/-- The call whose bytes are those of `w`, the first the least significant, every byte above `nbits` zero. -/
def tableCall (nbits w : Nat) : HostCall :=
  let w := w % 2 ^ nbits
  ⟨tableFormat nbits (BitVec.ofNat 8 w), leBytes maxCallBytes w⟩

/-- The instruction the decoder reads from a word of the opcode table. -/
def decodeTableWord (nbits w : Nat) : Option Instr :=
  match decode (tableCall nbits w) with
  | .ok i => some i
  | .error _ => none

end Sys2Proof
end

