-- ==== Sys2Proof/Machine/State.lean ====
section
/-! DEFINITION. The state of the core as plain data (10_state.md), the host's side of it (the stores and the pending
calls, 10_state.md R41), the reasons a step can stop, and the state after construction (70_reset_and_hazards.md R600). -/

namespace Sys2Proof.Machine

/-- Bytes by address: the cells of a store, of a track buffer, of a sector buffer, of a block of tape samples.
An address that is not listed reads as 0x00 (20_memory.md R84 gives it for the bytes a store grows by;
notes/assumptions/7.md for a store nothing has written). -/
abbrev Memory := List Host.Cell

/-- The canonical form: addresses strictly rising, no listed byte equal to what an unlisted address reads as. -/
abbrev Memory.wf (m : Memory) : Prop :=
  m.Pairwise (fun c d => c.1 < d.1) ∧ ∀ c ∈ m, c.2 ≠ 0x00#8

/-- Every listed address lies below `n`. -/
abbrev Memory.below (m : Memory) (n : Nat) : Prop := ∀ c ∈ m, c.1 < n

/-! ### Stores -/

/-- A file of the host (20_memory.md R80). -/
inductive Store where
  /-- a byte sequence: its length and its bytes -/
  | bytes (len : Nat) (cells : Memory)
  /-- an audio container, known by the frames it gives (20_memory.md R85) -/
  | container (c : Sound)
  deriving DecidableEq, Repr

/-- What a store id that is not listed names: the empty file (DESIGN CHOICE, notes/assumptions/7.md). -/
def Store.empty : Store := .bytes 0 []

/-! ### Track buffer manager -/

/-- The fields of 10_state.md R26. -/
structure Tbm where
  imageFile      : Option Nat
  readOnly       : Bool
  hasErrorTable  : Bool
  nTracks        : Byte
  currentTrack   : Byte
  /-- `trackBuffer_GCR`, 8192 bytes -/
  gcr            : Memory
  /-- `trackBuffer_D64`, 5376 bytes -/
  d64            : Memory
  /-- `badSectorTable`, 24 bytes -/
  bad            : Memory
  trackDirtyFlag : Bool
  diskID         : Byte
  idCharacter1   : Byte
  idCharacter2   : Byte
  deriving DecidableEq, Repr

/-- `badSectorTable` with every code 0x01 (10_state.md R26). -/
def badAllOk : Memory := (List.range 24).map fun s => (s, 0x01#8)

/-- The construct values of TBM (10_state.md R26). -/
def Tbm.construct (p : Params) : Tbm where
  imageFile := none
  readOnly := true
  hasErrorTable := false
  nTracks := 0
  currentTrack := 0
  gcr := []
  d64 := []
  bad := badAllOk
  trackDirtyFlag := false
  diskID := p.diskIdInit
  idCharacter1 := 0x41
  idCharacter2 := 0x41

/-! ### Floppy controller -/

/-- The fields of 10_state.md R30; the configuration of R29 is in `Params`. -/
structure Fdc where
  commandRegister      : Byte
  statusRegister       : Byte
  trackRegister        : Byte
  sectorRegister       : Byte
  dataRegister         : Byte
  currentTrack         : Byte
  currentSide          : BitVec 1
  /-- `buf`, 512 bytes -/
  buf                  : Memory
  /-- 0..512; 512 means no transfer -/
  bufPos               : Nat
  xferOffset           : Nat
  dataRequestFlag      : Bool
  interruptRequestFlag : Bool
  forceIntPending      : Bool
  stepDirIn            : Bool
  busyHackPhase        : Bool
  imageFile            : Option Nat
  readOnly             : Bool
  nTracks              : Byte
  nSides               : BitVec 2
  nSectorsPerTrack     : Byte
  faulted              : Bool
  deriving DecidableEq, Repr

/-- `BIT7_IDLE` (10_state.md R32). -/
def bit7Idle (p : Params) : Byte := if p.isWD1773 then 0x00 else 0x80

/-- The construct values of FDC (10_state.md R30, 70_reset_and_hazards.md R600). -/
def Fdc.construct (p : Params) : Fdc where
  commandRegister := 0x00
  statusRegister := bit7Idle p
  trackRegister := 0x00
  sectorRegister := 0x01
  dataRegister := 0x00
  currentTrack := 0
  currentSide := 0
  buf := []
  bufPos := 512
  xferOffset := 0
  dataRequestFlag := false
  interruptRequestFlag := false
  forceIntPending := false
  stepDirIn := true
  busyHackPhase := false
  imageFile := none
  readOnly := true
  nTracks := 0
  nSides := 0
  nSectorsPerTrack := 0
  faulted := false

/-! ### Tape deck -/

/-- The fields of a Native tape (10_state.md R37). -/
structure NativeTape where
  /-- the resident block: 4096 samples by index, each of `fileBitsPerSample` bits; every one 0 at open
  (DESIGN CHOICE, notes/assumptions/27.md) -/
  blockBuf   : Memory
  blockIndex : Option Nat
  blockDirty : Bool
  deriving DecidableEq, Repr

/-- The pulse-length encodings of a C16 TAP file (30_encoding.md R163): version 1 and version 2. -/
inductive TapVersion where
  | old
  | new
  deriving DecidableEq, Repr

/-- The decode cursor of a LegacyTap tape (44_tape.md R440); `halfRemaining = none` is ∞. -/
structure TapCursor where
  dpos          : Nat
  halfRemaining : Option Nat
  level         : Bool
  pendingHalf   : Option Nat
  deriving DecidableEq, Repr

/-- The fields of a LegacyTap tape (10_state.md R38). -/
structure LegacyTape where
  version   : TapVersion
  pulseData : List Byte
  /-- pairs (file position, sample position), 44_tape.md R444 -/
  seekIndex : List (Nat × Nat)
  cursor    : TapCursor
  deriving DecidableEq, Repr

/-- The fields of a SoundFile tape (10_state.md R39). -/
structure SoundTape where
  channel         : Nat
  invert          : Bool
  filterOn        : Bool
  nChannels       : Nat
  /-- the resident block of frames, each of `nChannels` samples; none at open (DESIGN CHOICE,
  notes/assumptions/27.md) -/
  frameBuf        : List (List Rat)
  frameBlockIndex : Option Nat
  frameBlockDirty : Bool
  deriving DecidableEq, Repr

/-- The format tag with the fields of the format (10_state.md R35). -/
inductive Medium where
  | native (n : NativeTape)
  | legacyTap (l : LegacyTape)
  | soundFile (f : SoundTape)
  deriving DecidableEq, Repr

/-- A tape instance: the common fields of 10_state.md R36 and the format. -/
structure Tape where
  store                  : Nat
  mode                   : TapeMode
  isPlaybackOn           : Bool
  isRecordOn             : Bool
  isMotorOn              : Bool
  tapePosition           : Nat
  tapeLength             : Nat
  sampleRate             : Nat
  fileBitsPerSample      : Nat
  requestedBitsPerSample : Nat
  inputState             : Byte
  outputState            : Byte
  cuePoints              : List Nat
  cueDirty               : Bool
  medium                 : Medium
  deriving DecidableEq, Repr

/-! ### What a call returns -/

/-- The kinds of `HostIoError` (60_exceptions.md R510). -/
inductive IoError where
  | read
  | write
  | badLength
  | badGeometry
  | badFormat
  | badMode
  deriving DecidableEq, Repr

/-- What an operation returned to the host (00_scope.md R12): a result value, or the outcome `HostIoError`
(DESIGN CHOICE that State holds it, notes/assumptions/6.md). -/
inductive Result where
  /-- no result -/
  | none
  | bool (b : Bool)
  | byte (v : Byte)
  /-- `getHeadPosition` (42_fdc_ports.md R317) -/
  | word (v : BitVec 16)
  /-- `gcrDecodeTrack` (40_gcr_codec.md R230) -/
  | count (n : Nat)
  /-- `gcrEncodeFourBytes` (40_gcr_codec.md R200) -/
  | bytes (bs : List Byte)
  /-- `gcrDecodeFourBytes` (40_gcr_codec.md R201) -/
  | decoded (bs : List Byte) (valid : Bool)
  /-- `getTrackInfo` (41_track_buffer.md R264): current track, track size, sectors per track, read-only -/
  | trackInfo (track : Byte) (size sectors : Nat) (readOnly : Bool)
  /-- `getTapeInfo` (44_tape.md R409): position, length, rate, play, record, motor, cue points -/
  | tapeInfo (pos len rate : Nat) (play record motor : Bool) (cues : List Nat)
  | hostIoError (kind : IoError)
  deriving DecidableEq, Repr

/-! ### The machine -/

/-- The core, the host's stores and calls, and the model's own bookkeeping of free draws. -/
structure State where
  params     : Params
  tbm        : Tbm
  fdc        : Fdc
  tape       : Option Tape
  /-- the host's files by id, ids strictly rising, none equal to the empty file (20_memory.md R80) -/
  stores     : List (Nat × Store)
  /-- the host calls not yet run, oldest first (MODEL's own, notes/assumptions/1.md) -/
  calls      : List HostCall
  /-- what the last operation returned (MODEL's own, notes/assumptions/6.md) -/
  result     : Result
  /-- fault draws fixed in advance, one per store access (MODEL's own, notes/assumptions/5.md) -/
  ioScript   : List Bool
  /-- free fault draws taken (MODEL's own, notes/assumptions/5.md) -/
  ioCount    : Nat
  /-- free index-pulse draws taken (MODEL's own, notes/assumptions/9.md) -/
  indexDraws : Nat
  deriving DecidableEq, Repr

/-- Why the machine is stuck. -/
inductive Fault where
  /-- Raised by `step` when no host call is pending: the core has no agent of its own (00_scope.md R7), so nothing
  moves. Safe: the core with no call pending does nothing either (notes/assumptions/25.md). -/
  | noCallPending
  deriving DecidableEq, Repr

/-- Why a call has no meaning. -/
inductive Refusal where
  /-- Raised by `exec` for an instruction that has no meaning yet. Safe: the model stops. -/
  | notModelled (mnemonic : String)
  /-- Raised by `step` for a call whose bytes name no operation (30_encoding.md R170, "is refused by the decoder").
  Safe: the spec admits no such step (93_implementation_defined.md). -/
  | notAnOperation (e : DecodeError)
  deriving DecidableEq, Repr

/-- The machine after construction, with the default parameters (70_reset_and_hazards.md R600); the model's own
fields at the values notes/assumptions/1.md, 5.md, 6.md, 7.md and 9.md name. -/
def State.reset : State where
  params := {}
  tbm := Tbm.construct {}
  fdc := Fdc.construct {}
  tape := none
  stores := []
  calls := []
  result := .none
  ioScript := []
  ioCount := 0
  indexDraws := 0

end Sys2Proof.Machine
end

