-- ==== Sys2Proof/Machine/Ops.lean ====
section
/-! DEFINITION. The named operations over memory, stores and state that the meanings share, and the one way an
operation ends with a host error (00_scope.md R11, R12). -/

namespace Sys2Proof.Machine

/-! ### Memory -/

/-- The byte at address `a`. -/
def Memory.read : Memory → Nat → Byte
  | [], _ => 0x00#8
  | (k, v) :: m, a => if k = a then v else Memory.read m a

/-- The cells of the bytes `bs` laid out from address `a`, zeros left out. -/
def Memory.cellsAt : Nat → List Byte → Memory
  | _, [] => []
  | a, b :: bs => if b = 0x00#8 then Memory.cellsAt (a + 1) bs else (a, b) :: Memory.cellsAt (a + 1) bs

/-- The memory with the bytes `bs` written from address `a` on. -/
def Memory.writeBytes (m : Memory) (a : Nat) (bs : List Byte) : Memory :=
  m.filter (fun c => decide (c.1 < a)) ++ Memory.cellsAt a bs
    ++ m.filter (fun c => decide (a + bs.length ≤ c.1))

/-- The memory with one byte written. -/
def Memory.write (m : Memory) (a : Nat) (v : Byte) : Memory := Memory.writeBytes m a [v]

/-- The `n` bytes from address `a` on. -/
def Memory.readBytes (m : Memory) (a n : Nat) : List Byte :=
  let w : Memory := m.filter (fun c => decide (a ≤ c.1 ∧ c.1 < a + n))
  (List.range n).map fun i => Memory.read w (a + i)

/-- The memory that holds exactly the bytes `bs` from address 0 on. -/
def Memory.ofBytes (bs : List Byte) : Memory := Memory.cellsAt 0 bs

/-! ### State updates -/

def State.setTbm (s : State) (t : Tbm) : State := { s with tbm := t }
def State.setFdc (s : State) (f : Fdc) : State := { s with fdc := f }
def State.setTape (s : State) (t : Option Tape) : State := { s with tape := t }
def State.setStores (s : State) (m : List (Nat × Store)) : State := { s with stores := m }
def State.setResult (s : State) (r : Result) : State := { s with result := r }

/-! ### Outcomes

The core has no trap entry and no return from one (60_exceptions.md R524, R525): the one exceptional end of an
operation is `HostIoError`, an outcome returned to the host with the step ended. -/

/-- `raise HostIoError(kind)` (00_scope.md R12): the call returns the error; the state changes made before it stay
(60_exceptions.md R511) and the core keeps running (R512). -/
def State.raise (s : State) (kind : IoError) : State := s.setResult (.hostIoError kind)

/-- An operation ends normally with result `r` (`return v`, 00_scope.md R12). -/
def State.returns (s : State) (r : Result) : State := s.setResult r

/-- The state an operation that may raise leaves: its result by `f`, or the host error. -/
def finish {α : Type} (f : α → Result) (out : Except IoError α × State) : State :=
  match out.1 with
  | .ok a => out.2.returns (f a)
  | .error k => out.2.raise k

/-! ### Stores -/

/-- The length and the bytes of a store. The bytes of a container are free (20_memory.md R85). -/
def Store.image : Store → Nat × Memory
  | .bytes len cells => (len, cells)
  | .container c => ((Config.containerBytes c).length, Memory.ofBytes (Config.containerBytes c))

/-- `StoreLen` (00_scope.md R11). -/
def Store.length (st : Store) : Nat := st.image.1

/-- The store with `bs` written at `off`; it grows as needed, by bytes 0x00 (20_memory.md R84). -/
def Store.write (st : Store) (off : Nat) (bs : List Byte) : Store :=
  .bytes (max st.length (off + bs.length)) (Memory.writeBytes st.image.2 off bs)

/-- The store a store id names; every id names one (60_exceptions.md R510; notes/assumptions/7.md). -/
def lookupStore : List (Nat × Store) → Nat → Store
  | [], _ => Store.empty
  | (k, st) :: m, id => if k = id then st else lookupStore m id

/-- The host's files with the one named `id` replaced, in canonical form. -/
def updateStore (m : List (Nat × Store)) (id : Nat) (st : Store) : List (Nat × Store) :=
  m.filter (fun c => decide (c.1 < id)) ++ (if st = Store.empty then [] else [(id, st)])
    ++ m.filter (fun c => decide (id < c.1))

def State.store (s : State) (id : Nat) : Store := lookupStore s.stores id

def State.putStore (s : State) (id : Nat) (st : Store) : State := s.setStores (updateStore s.stores id st)

/-! ### The host fault oracle -/

/-- The fault draw of the next store access (20_memory.md R84): the next of the script, or else a free one. -/
def State.ioFails (s : State) : Bool :=
  match s.ioScript with
  | b :: _ => b
  | [] => Config.hostIoFails s.ioCount

/-- The state once that draw is taken. -/
def State.ioNext (s : State) : State :=
  match s.ioScript with
  | _ :: bs => { s with ioScript := bs }
  | [] => { s with ioCount := s.ioCount + 1 }

/-- What a store read gives (00_scope.md R11). -/
inductive ReadOutcome where
  | ok (bs : List Byte)
  | short
  | ioerr
  deriving DecidableEq, Repr

/-- `MemRead(St, off, n)` (00_scope.md R11, 20_memory.md R84): `short` past the store's end whatever the oracle
draws, else the draw decides. -/
def memRead (id off n : Nat) (s : State) : ReadOutcome × State :=
  if (s.store id).length < off + n then (.short, s)
  else if s.ioFails then (.ioerr, s.ioNext)
  else (.ok ((s.store id).image.2.readBytes off n), s.ioNext)

/-- `MemWrite(St, off, bytes)` (00_scope.md R11, 20_memory.md R84): whether it failed, and the state it leaves. A
failed write changes no store. -/
def memWrite (id off : Nat) (bs : List Byte) (s : State) : Bool × State :=
  if s.ioFails then (true, s.ioNext)
  else (false, s.ioNext.putStore id ((s.store id).write off bs))

/-! ### Searching -/

/-- The first of the `n` numbers from `a` on that `p` accepts. -/
def findFrom (p : Nat → Bool) (a : Nat) : Nat → Option Nat
  | 0 => none
  | n + 1 => if p a then some a else findFrom p (a + 1) n

end Sys2Proof.Machine
end

