-- ==== Sys2Proof/Machine/Operands.lean ====
section
/-! DEFINITION. The operand forms: the constant tables of 10_state.md R20 to R24 and 00_scope.md R8, the fields of a
command byte (30_encoding.md R141 to R144), track numbers, sector offsets, times and tape samples. -/

namespace Sys2Proof.Machine

/-! ### Constants of 00_scope.md R8 -/

/-- `GCR_BUF_CAP` -/
def gcrBufCap : Nat := 8192
/-- `D64_BUF_CAP` = 21 sectors of 256 bytes -/
def d64BufCap : Nat := 5376
/-- `BAD_TABLE_LEN` -/
def badTableLen : Nat := 24
/-- `FDC_SECTOR` -/
def fdcSector : Nat := 512
/-- `CUE_CAP` -/
def cueCap : Nat := 1019
/-- `TAPE_BLOCK` -/
def tapeBlock : Nat := 4096
/-- `SOUND_BLOCK` -/
def soundBlock : Nat := 1024
/-- `C16_RATE` -/
def c16Rate : Nat := 55420
/-- `C16_DOWNSAMPLE` -/
def c16Downsample : Nat := 16
/-- `C16_INDEX_CAP` -/
def c16IndexCap : Nat := 2700
/-- The position at which recording stops (60_exceptions.md R535) -/
def tapeLimit : Nat := 0xFFFFFFFE
/-- The cue-point sentinel (30_encoding.md R160) -/
def cueSentinel : Nat := 0xFFFFFFFF
/-- `TAPE_MAGIC` (30_encoding.md R160, 90_conflicts.md C5) -/
def tapeMagic : List Byte := [0x72, 0xCD, 0x75, 0x02, 0x26, 0x51, 0x44, 0x1C]
/-- `C16-TAPE-RAW` in ASCII (30_encoding.md R163) -/
def c16Magic : List Byte := [0x43, 0x31, 0x36, 0x2D, 0x54, 0x41, 0x50, 0x45, 0x2D, 0x52, 0x41, 0x57]
/-- A 32-bit field keeps the low bits of what is written to it (00_scope.md R10): the length of a tape at open
(10_state.md R36; notes/assumptions/14.md). -/
def low32 (n : Nat) : Nat := n % 2 ^ 32

/-! ### Tables of D64 tracks -/

/-- `TAIL_GAP(nS)` (30_encoding.md R128). -/
def tailGap (p : Params) (nSectors : Nat) : Nat := (p.tailGaps.lookup nSectors).getD p.tailGapOther

/-- The entry of track `t` of a table of tracks 1 to 42; 0 outside them (41_track_buffer.md R262, R264). -/
def trackEntry (table : List Nat) (t : Nat) : Nat := if 1 ≤ t ∧ t ≤ 42 then table.getD (t - 1) 0 else 0

/-- `SPT[t]` (10_state.md R22). -/
def sectorsPerTrack (p : Params) (t : Nat) : Nat := trackEntry p.sectorsPerTrack t

/-- `TRACK_SIZE[t]` (10_state.md R23). -/
def trackSize (p : Params) (t : Nat) : Nat := trackEntry p.trackSizes t

/-- `OFFSET[t]` (10_state.md R24). -/
def trackOffset (p : Params) : Nat → Nat
  | 0 => 0
  | t + 1 => trackOffset p t + 256 * sectorsPerTrack p t

/-- `validCount(N)` (41_track_buffer.md R257): `N = 683 + 17·k` with k in 0..7. -/
def validCount (n : Nat) : Bool := decide (683 ≤ n ∧ (n - 683) % 17 = 0 ∧ (n - 683) / 17 ≤ 7)

/-- Geometry from a file's length (41_track_buffer.md R256): the sector count and whether there is an error table. -/
def d64Layout (len : Nat) : Option (Nat × Bool) :=
  if len % 256 = 0 ∧ validCount (len / 256) = true then some (len / 256, false)
  else if len % 257 = 0 ∧ validCount (len / 257) = true then some (len / 257, true)
  else none

/-- A track number operand: −1 means the current track (41_track_buffer.md R250, R252). -/
def trackArg (trackNum : Int) (cur : Byte) : Int := if trackNum = -1 then (cur.toNat : Int) else trackNum

/-- The target of `setCurrentTrack`, clamped to 1..42 (41_track_buffer.md R255). -/
def clampTrack (trackNum : Int) : Int := min (max trackNum 1) 42

/-! ### Fields of a command byte (30_encoding.md R141 to R144) -/

/-- h and V, u, m, hs, E, pc, I3, I2: bit `k` of the command byte. -/
def cmdBit (c : Byte) (k : Nat) : Bool := c.getLsbD k

/-- The transfer kinds (10_state.md R34). -/
inductive TransferKind where
  | sectorRead
  | sectorWrite
  | idRead
  deriving DecidableEq, Repr

/-- The transfer kind that `commandRegister` names (10_state.md R34). -/
def transferKind (c : Byte) : Option TransferKind :=
  if c.extractLsb' 5 3 = 0b100#3 then some .sectorRead
  else if c.extractLsb' 5 3 = 0b101#3 then some .sectorWrite
  else if c.extractLsb' 5 3 = 0b110#3 then some .idRead
  else none

/-! ### FDC geometry -/

/-- The store offset of the sector the registers name (42_fdc_ports.md R304, 20_memory.md R83). -/
def sectorOffset (f : Fdc) : Nat :=
  ((f.currentTrack.toNat * f.nSides.toNat + f.currentSide.toNat) * f.nSectorsPerTrack.toNat
    + (f.sectorRegister.toNat - 1)) * fdcSector

/-- A 16-bit field of a boot sector, least significant byte first (20_memory.md R92). -/
def le16 (bs : List Byte) (off : Nat) : Nat := (bs.getD off 0).toNat + 256 * (bs.getD (off + 1) 0).toNat

/-- The geometry a FAT boot sector gives: tracks, sides, sectors per track (42_fdc_ports.md R321). -/
def bpbGeometry (b : List Byte) : Option (Nat × Nat × Nat) :=
  let bps := le16 b 11
  let spt := le16 b 24
  let heads := le16 b 26
  let total := le16 b 19
  if bps = 512 ∧ 1 ≤ spt ∧ spt ≤ 255 ∧ (heads = 1 ∨ heads = 2) ∧ 0 < total ∧ total % (spt * heads) = 0
      ∧ 1 ≤ total / (spt * heads) ∧ total / (spt * heads) ≤ 255
  then some (total / (spt * heads), heads, spt)
  else none

/-- The geometry the size table gives (42_fdc_ports.md R322). -/
def sizeGeometry (rows : List GeometryRow) (len : Nat) : Option (Nat × Nat × Nat) :=
  (rows.find? fun r => r.length == len).map fun r => (r.tracks, r.sides, r.sectors)

/-- The packed head position (42_fdc_ports.md R317). -/
def headPosition (f : Fdc) : BitVec 16 :=
  (f.currentTrack.setWidth 16 <<< 8) ||| (f.currentSide.setWidth 16 <<< 7)
    ||| (f.sectorRegister.extractLsb' 0 7).setWidth 16

/-! ### Times and tape samples -/

/-- `floor(t · rate)` (44_tape.md R420, R421). -/
def floorSamples (t : Rat) (rate : Nat) : Int := (t * (rate : Rat)).floor

/-- `min(max(p, 0), len)` (44_tape.md R420). -/
def clampPosition (p : Int) (len : Nat) : Nat := min p.toNat len

/-- The sample resolutions the spec admits (10_state.md R36). -/
def validBits (b : Nat) : Bool := b == 1 || b == 2 || b == 4 || b == 8

/-- The requantization of a sample of `from` bits to `to` bits (44_tape.md R430, R431). -/
def requantize (fromBits toBits : Nat) (v : Byte) : Byte :=
  if fromBits ≤ toBits then v <<< (toBits - fromBits) else v >>> (fromBits - toBits)

/-- `v mod 2^r` (44_tape.md R408). -/
def lowBits (r : Nat) (v : Byte) : Byte := BitVec.ofNat 8 (v.toNat % 2 ^ r)

/-- How far sample `i` of `b` bits stands above bit 0 of its byte (20_memory.md R90). -/
def sampleShift (p : SamplePacking) (b i : Nat) : Nat :=
  match p with
  | .msbFirst => 8 - (i * b) % 8 - b
  | .lsbFirst => (i * b) % 8

/-- Sample `i` of `b` bits, taken from its byte (20_memory.md R90). -/
def unpackSample (p : SamplePacking) (b i : Nat) (v : Byte) : Byte := lowBits b (v >>> sampleShift p b i)

/-- The bytes that hold the samples `vs` of `b` bits, the first at a byte boundary; unused bits of the last byte are 0
(20_memory.md R90, 44_tape.md R432). -/
def packSamples (p : SamplePacking) (b : Nat) (vs : List Byte) : List Byte :=
  let per := 8 / b
  (List.range ((vs.length * b + 7) / 8)).map fun j =>
    (List.range per).foldl (fun acc k => acc ||| (vs.getD (j * per + k) 0) <<< sampleShift p b k) 0

/-- A 32-bit number, most significant byte first (20_memory.md R89). -/
def be32 (bs : List Byte) (off : Nat) : Nat := beNat ((bs.drop off).take 4)

end Sys2Proof.Machine
end

