-- ==== Sys2Proof/Machine/Flags.lean ====
section
/-! DEFINITION. The status byte of the FDC: its bits (10_state.md R31) and the compositions each command makes
(43_fdc_commands.md, 60_exceptions.md R502). -/

namespace Sys2Proof.Machine

/-! ### Bits (10_state.md R31) -/

def stBusy : Byte := 0x01
/-- INDEX after type I, DRQ after type II and III -/
def stDrq : Byte := 0x02
def stTrack0 : Byte := 0x04
def stCrcError : Byte := 0x08
/-- SEEK ERROR after type I, RECORD NOT FOUND after type II and III -/
def stRecordNotFound : Byte := 0x10
/-- spin-up complete, or write error after the write commands -/
def stBit5 : Byte := 0x20
def stWriteProtect : Byte := 0x40

/-- A bit of the status byte when the condition holds. -/
def flagIf (b : Bool) (bit : Byte) : Byte := if b then bit else 0

/-! ### Conditions -/

/-- `WP` (43_fdc_commands.md): no image, or a write-protected one. -/
def writeProtected (f : Fdc) : Bool := f.imageFile.isNone || f.readOnly

/-- `seekError` of a type I command with verify bit `v` (43_fdc_commands.md R344). -/
def seekError (v : Bool) (f : Fdc) : Bool :=
  v && (f.imageFile.isNone || decide (f.nTracks ≤ f.currentTrack) || decide (f.trackRegister ≠ f.currentTrack))

/-- `posOK` (43_fdc_commands.md R351). -/
def posOK (f : Fdc) : Bool :=
  f.imageFile.isSome && decide (f.currentTrack < f.nTracks) && decide (f.currentSide.toNat < f.nSides.toNat)
    && decide (1 ≤ f.sectorRegister) && decide (f.sectorRegister ≤ f.nSectorsPerTrack)
    && decide (f.trackRegister = f.currentTrack)

/-- The position check of READ ADDRESS (43_fdc_commands.md R364). -/
def addressOK (f : Fdc) : Bool :=
  f.imageFile.isSome && decide (f.currentTrack < f.nTracks) && decide (f.currentSide.toNat < f.nSides.toNat)

/-! ### Compositions -/

/-- The status of a type I command (43_fdc_commands.md R345). -/
def typeIStatus (p : Params) (f : Fdc) (v index : Bool) : Byte :=
  bit7Idle p ||| flagIf (writeProtected f) stWriteProtect ||| stBit5 ||| flagIf (seekError v f) stRecordNotFound
    ||| flagIf (f.currentTrack == 0) stTrack0 ||| flagIf index stDrq

/-- The status of a running sector transfer: BUSY and DRQ (43_fdc_commands.md R352, R358). -/
def transferStatus (p : Params) : Byte := stBusy ||| stDrq ||| bit7Idle p

/-- The status of a running READ ADDRESS (43_fdc_commands.md R364). -/
def addressStatus (p : Params) : Byte := stBit5 ||| stBusy ||| stDrq ||| bit7Idle p

/-- RECORD NOT FOUND (43_fdc_commands.md R351). -/
def notFoundStatus (p : Params) : Byte := stRecordNotFound ||| bit7Idle p

/-- CRC error (43_fdc_commands.md R353). -/
def crcErrorStatus (p : Params) : Byte := stCrcError ||| bit7Idle p

/-- WRITE PROTECT (43_fdc_commands.md R357). -/
def protectedStatus (p : Params) : Byte := stWriteProtect ||| bit7Idle p

/-- Write error (43_fdc_commands.md R360); also the status READ ADDRESS ends with (R365). -/
def bit5Status (p : Params) : Byte := stBit5 ||| bit7Idle p

/-- The status of READ TRACK, the one that does not use `BIT7_IDLE` (43_fdc_commands.md R370, 90_conflicts.md C8). -/
def readTrackStatus : Byte := 0xA0

/-- The status of WRITE TRACK (43_fdc_commands.md R371). -/
def writeTrackStatus (p : Params) (f : Fdc) : Byte :=
  stBit5 ||| flagIf (writeProtected f) stWriteProtect ||| bit7Idle p

/-- `status & ~0x03`: BUSY and DRQ cleared. -/
def clearBusyDrq (st : Byte) : Byte := st &&& ~~~(stBusy ||| stDrq)

end Sys2Proof.Machine
end

