-- ==== Sys2Proof/Machine/FdcCommands.lean ====
section
/-! DEFINITION. The floppy controller's commands: the command write, the bodies of the eleven commands, the end of a
transfer and the multi-sector reissue, and the meanings of the command rows (43_fdc_commands.md). -/

namespace Sys2Proof.Machine

/-! ### Ending a command -/

/-- `done()` (43_fdc_commands.md): INTRQ set and the command register cleared. -/
def Fdc.done (f : Fdc) : Fdc := { f with interruptRequestFlag := true, commandRegister := 0x00 }

/-- A type II or III command ends with status `st` (43_fdc_commands.md R351, R353, R357, R360, R370, R371). -/
def endCommand (st : Byte) (s : State) : State := s.setFdc { s.fdc with statusRegister := st }.done

/-- `INDEX_BIT` (43_fdc_commands.md R345): 1 iff an image is attached, or a free draw. -/
def State.indexBit (s : State) : Bool :=
  match s.params.indexBit with
  | .attached => s.fdc.imageFile.isSome
  | .drawn => Config.indexPulse s.indexDraws

/-- The state once that draw is taken. -/
def State.indexNext (s : State) : State :=
  match s.params.indexBit with
  | .attached => s
  | .drawn => { s with indexDraws := s.indexDraws + 1 }

/-- `typeIEnd(V)` (43_fdc_commands.md R345). -/
def typeIEnd (v : Bool) (s : State) : State :=
  s.indexNext.setFdc { s.fdc with
    statusRegister := typeIStatus s.params s.fdc v s.indexBit, interruptRequestFlag := true }

/-! ### Type I -/

/-- The head moved by `d` tracks, within 0..`HEAD_MAX` (43_fdc_commands.md R346 to R349). -/
def moveHead (p : Params) (t : Byte) (d : Int) : Byte :=
  BitVec.ofInt 8 (min (max ((t.toNat : Int) + d) 0) p.headMax.toNat)

/-- RESTORE (43_fdc_commands.md R343). -/
def cmdRestore (v : Bool) (s : State) : State :=
  typeIEnd v (s.setFdc { s.fdc with currentTrack := 0, trackRegister := 0, stepDirIn := false })

/-- SEEK (43_fdc_commands.md R346, 90_conflicts.md C2). -/
def cmdSeek (v : Bool) (s : State) : State :=
  let delta : Int := (s.fdc.dataRegister.toNat : Int) - (s.fdc.trackRegister.toNat : Int)
  typeIEnd v (s.setFdc { s.fdc with
    stepDirIn := if 0 < delta then true else if delta < 0 then false else s.fdc.stepDirIn,
    currentTrack := moveHead s.params s.fdc.currentTrack delta,
    trackRegister := s.fdc.dataRegister })

/-- A step in direction `dirIn`, with update bit `u` (43_fdc_commands.md R347 to R349). -/
def stepHead (p : Params) (dirIn u : Bool) (f : Fdc) : Fdc :=
  { f with
    currentTrack := moveHead p f.currentTrack (if dirIn then 1 else -1),
    trackRegister := if u then (if dirIn then f.trackRegister + 1 else f.trackRegister - 1) else f.trackRegister }

/-- STEP (43_fdc_commands.md R347). -/
def cmdStep (u v : Bool) (s : State) : State := typeIEnd v (s.setFdc (stepHead s.params s.fdc.stepDirIn u s.fdc))

/-- STEP IN (43_fdc_commands.md R348). -/
def cmdStepIn (u v : Bool) (s : State) : State :=
  typeIEnd v (s.setFdc (stepHead s.params true u { s.fdc with stepDirIn := true }))

/-- STEP OUT (43_fdc_commands.md R349). -/
def cmdStepOut (u v : Bool) (s : State) : State :=
  typeIEnd v (s.setFdc (stepHead s.params false u { s.fdc with stepDirIn := false }))

/-! ### Type II -/

/-- Side select of type II (43_fdc_commands.md R350). -/
def selectSide (hs pc : Bool) (s : State) : State :=
  if s.params.isWD1773 && pc then s.setFdc { s.fdc with currentSide := BitVec.ofBool hs } else s

/-- A sector transfer starts: cursor at 0, DRQ and BUSY (43_fdc_commands.md R352, R358). -/
def startTransfer (s : State) : State :=
  s.setFdc { s.fdc with bufPos := 0, dataRequestFlag := true, statusRegister := transferStatus s.params }

/-- READ SECTOR (43_fdc_commands.md R352, R353). -/
def cmdReadSector (hs pc : Bool) (s : State) : State :=
  let s1 := selectSide hs pc s
  match s1.fdc.imageFile with
  | none => endCommand (notFoundStatus s1.params) s1
  | some id =>
    if posOK s1.fdc then
      let off := sectorOffset s1.fdc
      match memRead id off fdcSector (s1.setFdc { s1.fdc with xferOffset := off }) with
      | (.ok bs, s2) => startTransfer (s2.setFdc { s2.fdc with buf := Memory.ofBytes bs })
      | (_, s2) => endCommand (crcErrorStatus s2.params) s2
    else endCommand (notFoundStatus s1.params) s1

/-- WRITE SECTOR (43_fdc_commands.md R356 to R358). -/
def cmdWriteSector (hs pc : Bool) (s : State) : State :=
  let s1 := selectSide hs pc s
  if writeProtected s1.fdc then endCommand (protectedStatus s1.params) s1
  else if posOK s1.fdc then startTransfer (s1.setFdc { s1.fdc with xferOffset := sectorOffset s1.fdc })
  else endCommand (notFoundStatus s1.params) s1

/-! ### Type III -/

/-- One shift of the CRC register (30_encoding.md R147). -/
def crcShift (c : BitVec 16) : BitVec 16 := if c.msb then (c <<< 1) ^^^ 0x1021 else c <<< 1

/-- One byte into the CRC register (30_encoding.md R147). -/
def crcByte (c : BitVec 16) (b : Byte) : BitVec 16 :=
  let c := c ^^^ (b.setWidth 16 <<< 8)
  crcShift (crcShift (crcShift (crcShift (crcShift (crcShift (crcShift (crcShift c)))))))

/-- `crc16` (30_encoding.md R147). -/
def crc16 (bs : List Byte) : BitVec 16 := bs.foldl crcByte 0xFFFF

/-- The four ID bytes under the head (30_encoding.md R146). -/
def idBytes (f : Fdc) : List Byte := [f.currentTrack, f.currentSide.setWidth 8, 0x01, 0x02]

/-- The ID field: the ID bytes and their CRC, high byte first (30_encoding.md R146, 20_memory.md R88). -/
def idField (f : Fdc) : List Byte :=
  let crc := crc16 ([0xA1, 0xA1, 0xA1, 0xFE] ++ idBytes f)
  idBytes f ++ [crc.extractLsb' 8 8, crc.extractLsb' 0 8]

/-- READ ADDRESS (43_fdc_commands.md R364). -/
def cmdReadAddress (s : State) : State :=
  if addressOK s.fdc then
    s.setFdc { s.fdc with
      buf := s.fdc.buf.writeBytes 506 (idField s.fdc), bufPos := 506, dataRequestFlag := true,
      statusRegister := addressStatus s.params }
  else endCommand (notFoundStatus s.params) s

/-- READ TRACK, unimplemented by design (43_fdc_commands.md R370). -/
def cmdReadTrack (s : State) : State := endCommand readTrackStatus s

/-- WRITE TRACK, unimplemented by design (43_fdc_commands.md R371). -/
def cmdWriteTrack (s : State) : State := endCommand (writeTrackStatus s.params s.fdc) s

/-! ### Writing the image -/

/-- `MemWrite` to the attached image. With none attached there is no store to take the bytes; no run reaches a write
transfer without an image (DESIGN CHOICE, notes/assumptions/19.md). -/
def imageWrite (f : Fdc) (s : State) : Bool × State :=
  match f.imageFile with
  | none => (true, s)
  | some id => memWrite id f.xferOffset (f.buf.readBytes 0 fdcSector) s

/-- A running write transfer with at least one byte (43_fdc_commands.md R380, R381). -/
def partialWrite (f : Fdc) : Bool :=
  decide (f.bufPos < fdcSector) && decide (transferKind f.commandRegister = some .sectorWrite) && decide (0 < f.bufPos)

/-- The buffer with its unwritten end zeroed (43_fdc_commands.md R381). -/
def Fdc.padded (f : Fdc) : Fdc :=
  { f with buf := f.buf.writeBytes f.bufPos (List.replicate (fdcSector - f.bufPos) 0x00) }

/-- `flushPartial()` (43_fdc_commands.md R381): the padded buffer written, status bit 5 set where the write fails. -/
def flushPartial (s : State) : State :=
  let w := imageWrite s.fdc.padded (s.setFdc s.fdc.padded)
  if w.1 then w.2.setFdc { w.2.fdc with statusRegister := w.2.fdc.statusRegister ||| stBit5 } else w.2

/-! ### Type IV -/

/-- FORCE INTERRUPT with condition bits I3 and I2 (43_fdc_commands.md R380 to R382). -/
def forceInterrupt (i3 i2 : Bool) (s : State) : State :=
  let s0 := s.setFdc { s.fdc with interruptRequestFlag := false, forceIntPending := false }
  let s1 := if partialWrite s0.fdc then flushPartial s0 else s0
  s1.setFdc { s1.fdc with
    bufPos := fdcSector, dataRequestFlag := false, statusRegister := clearBusyDrq s1.fdc.statusRegister,
    interruptRequestFlag := i3 || i2, forceIntPending := i3 || i2 }

/-! ### The command write -/

/-- The body of a command byte (43_fdc_commands.md R342). -/
def execute (c : Byte) (s : State) : State :=
  if c &&& 0xF0#8 = 0x00#8 then cmdRestore (cmdBit c 2) s
  else if c &&& 0xF0#8 = 0x10#8 then cmdSeek (cmdBit c 2) s
  else if c &&& 0xE0#8 = 0x20#8 then cmdStep (cmdBit c 4) (cmdBit c 2) s
  else if c &&& 0xE0#8 = 0x40#8 then cmdStepIn (cmdBit c 4) (cmdBit c 2) s
  else if c &&& 0xE0#8 = 0x60#8 then cmdStepOut (cmdBit c 4) (cmdBit c 2) s
  else if c &&& 0xE0#8 = 0x80#8 then cmdReadSector (cmdBit c 3) (cmdBit c 1) s
  else if c &&& 0xE0#8 = 0xA0#8 then cmdWriteSector (cmdBit c 3) (cmdBit c 1) s
  else if c &&& 0xF0#8 = 0xC0#8 then cmdReadAddress s
  else if c &&& 0xF0#8 = 0xD0#8 then forceInterrupt (cmdBit c 3) (cmdBit c 2) s
  else if c &&& 0xF0#8 = 0xE0#8 then cmdReadTrack s
  else cmdWriteTrack s

/-- The command register takes a command: INTRQ and `forceIntPending` cleared, `busyHackPhase` set
(43_fdc_commands.md R340). -/
def loadCommand (c : Byte) (s : State) : State :=
  s.setFdc { s.fdc with
    interruptRequestFlag := false, forceIntPending := false, busyHackPhase := true, commandRegister := c }

/-- A command other than FORCE INTERRUPT is written (43_fdc_commands.md R340, R341): during a transfer the parameter
`CMD_WHILE_BUSY` decides; the fault `CmdWhileBusy` sets `faulted` and changes nothing else (60_exceptions.md R516). -/
def acceptCommand (c : Byte) (body : State → State) (s : State) : State :=
  if s.fdc.bufPos < fdcSector then
    match s.params.cmdWhileBusy with
    | .fault => s.setFdc { s.fdc with faulted := true }
    | .abortAndExecute => body (loadCommand c (forceInterrupt false false s))
  else body (loadCommand c s)

/-- FORCE INTERRUPT is written: accepted at any time; it reads the kind of the old command (43_fdc_commands.md
R340). -/
def acceptForce (c : Byte) (i3 i2 : Bool) (s : State) : State :=
  let s1 := forceInterrupt i3 i2 (s.setFdc { s.fdc with busyHackPhase := true })
  s1.setFdc { s1.fdc with commandRegister := c }

/-- `writeCommandRegister` (43_fdc_commands.md R340). -/
def writeCommand (c : Byte) (s : State) : State :=
  if c &&& 0xF0#8 = 0xD0#8 then acceptForce c (cmdBit c 3) (cmdBit c 2) s else acceptCommand c (execute c) s

/-! ### The end of a transfer -/

/-- DRQ, BUSY and status bit 1 cleared at the end of a block (43_fdc_commands.md R354, R359). -/
def endBlock (s : State) : State :=
  s.setFdc { s.fdc with dataRequestFlag := false, statusRegister := clearBusyDrq s.fdc.statusRegister }

/-- The end of a block without error: with the multiple-sector bit the next sector is reissued, else the command is done
(43_fdc_commands.md R354, R359, R375). -/
def nextSector (s : State) : State :=
  if cmdBit s.fdc.commandRegister 4 then
    execute s.fdc.commandRegister (s.setFdc { s.fdc with sectorRegister := s.fdc.sectorRegister + 1 })
  else s.setFdc s.fdc.done

/-- `endReadSector()` (43_fdc_commands.md R354). -/
def endReadSector (s : State) : State := nextSector (endBlock s)

/-- `endWriteSector()` (43_fdc_commands.md R359, R360). -/
def endWriteSector (s : State) : State :=
  let w := imageWrite (endBlock s).fdc (endBlock s)
  if w.1 then endCommand (bit5Status w.2.params) w.2 else nextSector w.2

/-- `endReadAddress()` (43_fdc_commands.md R365). -/
def endReadAddress (s : State) : State :=
  endCommand (bit5Status s.params)
    (s.setFdc { s.fdc with dataRequestFlag := false, sectorRegister := s.fdc.buf.read 506 })

/-! ### Meanings of the command rows

Each is the bus write of its byte (43_fdc_commands.md R340), which has no result. -/

/-- RESTORE (43_fdc_commands.md R343). -/
def execRestore (h v : Bool) (r : BitVec 2) (s : State) : Host.Outcome State Fault Refusal :=
  .next ((acceptCommand (restoreByte h v r) (cmdRestore v) s).returns .none)

/-- SEEK (43_fdc_commands.md R346). -/
def execSeek (h v : Bool) (r : BitVec 2) (s : State) : Host.Outcome State Fault Refusal :=
  .next ((acceptCommand (seekByte h v r) (cmdSeek v) s).returns .none)

/-- STEP (43_fdc_commands.md R347). -/
def execStep (u h v : Bool) (r : BitVec 2) (s : State) : Host.Outcome State Fault Refusal :=
  .next ((acceptCommand (stepByte u h v r) (cmdStep u v) s).returns .none)

/-- STEP IN (43_fdc_commands.md R348). -/
def execStepIn (u h v : Bool) (r : BitVec 2) (s : State) : Host.Outcome State Fault Refusal :=
  .next ((acceptCommand (stepInByte u h v r) (cmdStepIn u v) s).returns .none)

/-- STEP OUT (43_fdc_commands.md R349). -/
def execStepOut (u h v : Bool) (r : BitVec 2) (s : State) : Host.Outcome State Fault Refusal :=
  .next ((acceptCommand (stepOutByte u h v r) (cmdStepOut u v) s).returns .none)

/-- READ SECTOR (43_fdc_commands.md R352). -/
def execRdsec (m hs e pc b0 : Bool) (s : State) : Host.Outcome State Fault Refusal :=
  .next ((acceptCommand (rdsecByte m hs e pc b0) (cmdReadSector hs pc) s).returns .none)

/-- WRITE SECTOR (43_fdc_commands.md R356). -/
def execWrsec (m hs e pc a0 : Bool) (s : State) : Host.Outcome State Fault Refusal :=
  .next ((acceptCommand (wrsecByte m hs e pc a0) (cmdWriteSector hs pc) s).returns .none)

/-- READ ADDRESS (43_fdc_commands.md R364). -/
def execRdaddr (hs e b1 b0 : Bool) (s : State) : Host.Outcome State Fault Refusal :=
  .next ((acceptCommand (rdaddrByte hs e b1 b0) cmdReadAddress s).returns .none)

/-- FORCE INTERRUPT (43_fdc_commands.md R380). -/
def execForceint (i3 i2 i1 i0 : Bool) (s : State) : Host.Outcome State Fault Refusal :=
  .next ((acceptForce (forceintByte i3 i2 i1 i0) i3 i2 s).returns .none)

/-- READ TRACK (43_fdc_commands.md R370). -/
def execRdtrk (hs e b1 b0 : Bool) (s : State) : Host.Outcome State Fault Refusal :=
  .next ((acceptCommand (rdtrkByte hs e b1 b0) cmdReadTrack s).returns .none)

/-- WRITE TRACK (43_fdc_commands.md R371). -/
def execWrtrk (hs e p b0 : Bool) (s : State) : Host.Outcome State Fault Refusal :=
  .next ((acceptCommand (wrtrkByte hs e p b0) cmdWriteTrack s).returns .none)

/-- CMD, the command port (30_encoding.md R150, 43_fdc_commands.md R340). -/
def execCmd (v : Byte) (s : State) : Host.Outcome State Fault Refusal := .next ((writeCommand v s).returns .none)

/-- `writeCommandRegister` (43_fdc_commands.md R340). -/
def execWriteCommandRegister (v : Byte) (s : State) : Host.Outcome State Fault Refusal :=
  .next ((writeCommand v s).returns .none)

end Sys2Proof.Machine
end

