-- ==== Sys2Proof/Machine/FdcPorts.lean ====
section
/-! DEFINITION. The floppy controller's ports, peeks and outputs, the attach of an image, and the reset
(42_fdc_ports.md, 70_reset_and_hazards.md R603). -/

namespace Sys2Proof.Machine

/-! ### Registers -/

/-- `writeTrackRegister` (42_fdc_ports.md R300). -/
def writeTrackReg (v : Byte) (s : State) : State := (s.setFdc { s.fdc with trackRegister := v }).returns .none

/-- `writeSectorRegister` (42_fdc_ports.md R302). -/
def writeSectorReg (v : Byte) (s : State) : State := (s.setFdc { s.fdc with sectorRegister := v }).returns .none

/-- The byte a status read returns (42_fdc_ports.md R307, R308): with the busy hack, bit 0 ORed with the phase. -/
def statusByte (s : State) : Byte :=
  s.fdc.statusRegister ||| flagIf (s.params.busyFlagHack && s.fdc.busyHackPhase) stBusy

/-- `readStatusRegister` (42_fdc_ports.md R307, R308). -/
def readStatus (s : State) : State :=
  (s.setFdc { s.fdc with
    busyHackPhase := if s.params.busyFlagHack then !s.fdc.busyHackPhase else s.fdc.busyHackPhase,
    interruptRequestFlag := s.fdc.interruptRequestFlag && s.fdc.forceIntPending }).returns (.byte (statusByte s))

/-- One byte of a read transfer goes out: the data register takes it and the cursor moves (42_fdc_ports.md R310). -/
def transferOut (s : State) : State :=
  s.setFdc { s.fdc with dataRegister := s.fdc.buf.read s.fdc.bufPos, bufPos := s.fdc.bufPos + 1 }

/-- One byte of a write transfer comes in (42_fdc_ports.md R312). -/
def transferIn (v : Byte) (s : State) : State :=
  s.setFdc { s.fdc with buf := s.fdc.buf.write s.fdc.bufPos v, bufPos := s.fdc.bufPos + 1 }

/-- `readDataRegister` (42_fdc_ports.md R310, R313). -/
def readData (s : State) : State :=
  if s.fdc.bufPos < fdcSector ∧ transferKind s.fdc.commandRegister = some .sectorRead then
    let s1 := transferOut s
    (if s1.fdc.bufPos = fdcSector then endReadSector s1 else s1).returns (.byte s1.fdc.dataRegister)
  else if s.fdc.bufPos < fdcSector ∧ transferKind s.fdc.commandRegister = some .idRead then
    let s1 := transferOut s
    (if s1.fdc.bufPos = fdcSector then endReadAddress s1 else s1).returns (.byte s1.fdc.dataRegister)
  else s.returns (.byte s.fdc.dataRegister)

/-- `writeDataRegister` (42_fdc_ports.md R312, R313). -/
def writeData (v : Byte) (s : State) : State :=
  let s0 := s.setFdc { s.fdc with dataRegister := v }
  if s0.fdc.bufPos < fdcSector ∧ transferKind s0.fdc.commandRegister = some .sectorWrite then
    let s1 := transferIn v s0
    (if s1.fdc.bufPos = fdcSector then endWriteSector s1 else s1).returns .none
  else s0.returns .none

/-! ### Attach -/

/-- A transfer in progress is ended for a new image: a partial write goes to the old image as with FORCE INTERRUPT, a
failure setting status bit 5 (42_fdc_ports.md R320, 43_fdc_commands.md R381, 60_exceptions.md R502;
notes/assumptions/17.md). -/
def endTransfer (s : State) : State :=
  let s1 := if partialWrite s.fdc then flushPartial s else s
  if s1.fdc.bufPos < fdcSector then
    s1.setFdc { s1.fdc with
      bufPos := fdcSector, dataRequestFlag := false, statusRegister := clearBusyDrq s1.fdc.statusRegister }
  else s1

/-- FDC with no image (42_fdc_ports.md R320). -/
def Fdc.detached (f : Fdc) : Fdc :=
  { f with imageFile := none, readOnly := true, nTracks := 0, nSides := 0, nSectorsPerTrack := 0 }

/-- The geometry of a new image (42_fdc_ports.md R320 to R322): explicit, else by boot sector, else by size. -/
def findGeometry (id nTracks nSides nSectors : Nat) (s : State) : Except IoError (Nat × Nat × Nat) × State :=
  let bySize : Except IoError (Nat × Nat × Nat) :=
    match sizeGeometry s.params.geometryBySize (s.store id).length with
    | some g => .ok g
    | none => .error .badGeometry
  if 0 < nTracks ∧ 0 < nSides ∧ 0 < nSectors then
    if 2 < nSides ∨ 255 < nTracks ∨ 255 < nSectors then (.error .badGeometry, s)
    else (.ok (nTracks, nSides, nSectors), s)
  else
    match memRead id 0 fdcSector s with
    | (.ok b, s1) =>
      match bpbGeometry b with
      | some g => (.ok g, s1)
      | none => (bySize, s1)
    | (.short, s1) => (bySize, s1)
    | (.ioerr, s1) => (.error .read, s1)

/-- The image of geometry `(t, h, n)` is attached if its length fits (42_fdc_ports.md R320, R323). -/
def attachDisk (id : Nat) (readOnly : Bool) (t h n : Nat) (s : State) : Except IoError Unit × State :=
  if (s.store id).length = t * h * n * fdcSector then
    (.ok (), s.setFdc { s.fdc with
      imageFile := some id, readOnly := readOnly, nTracks := BitVec.ofNat 8 t, nSides := BitVec.ofNat 2 h,
      nSectorsPerTrack := BitVec.ofNat 8 n })
  else (.error .badLength, s)

/-- `setDiskImageFile` (42_fdc_ports.md R320). -/
def setDiskImageFile (file : Option Nat) (readOnly : Bool) (nTracks nSides nSectors : Nat) (s : State) :
    Except IoError Unit × State :=
  let s1 := endTransfer s
  let s2 := s1.setFdc s1.fdc.detached
  match file with
  | none => (.ok (), s2)
  | some id =>
    match findGeometry id nTracks nSides nSectors s2 with
    | (.ok (t, h, n), s3) => attachDisk id readOnly t h n s3
    | (.error k, s3) => (.error k, s3)

/-- The FDC after `resetFdc` (70_reset_and_hazards.md R603): construct values, the image kept. -/
def Fdc.resetKeepingImage (p : Params) (f : Fdc) : Fdc :=
  { Fdc.construct p with
    imageFile := f.imageFile, readOnly := f.readOnly, nTracks := f.nTracks, nSides := f.nSides,
    nSectorsPerTrack := f.nSectorsPerTrack }

/-! ### Meanings of the port rows (30_encoding.md R150) -/

/-- ST, the status port (42_fdc_ports.md R307). -/
def execSt (s : State) : Host.Outcome State Fault Refusal := .next (readStatus s)

/-- RTR, the track port read (42_fdc_ports.md R301). -/
def execRtr (s : State) : Host.Outcome State Fault Refusal := .next (s.returns (.byte s.fdc.trackRegister))

/-- WTR, the track port written (42_fdc_ports.md R300). -/
def execWtr (v : Byte) (s : State) : Host.Outcome State Fault Refusal := .next (writeTrackReg v s)

/-- RSR, the sector port read (42_fdc_ports.md R303). -/
def execRsr (s : State) : Host.Outcome State Fault Refusal := .next (s.returns (.byte s.fdc.sectorRegister))

/-- WSR, the sector port written (42_fdc_ports.md R302). -/
def execWsr (v : Byte) (s : State) : Host.Outcome State Fault Refusal := .next (writeSectorReg v s)

/-- RDR, the data port read (42_fdc_ports.md R310). -/
def execRdr (s : State) : Host.Outcome State Fault Refusal := .next (readData s)

/-- WDR, the data port written (42_fdc_ports.md R312). -/
def execWdr (v : Byte) (s : State) : Host.Outcome State Fault Refusal := .next (writeData v s)

/-! ### Meanings of the host operations -/

/-- `readStatusRegister` (42_fdc_ports.md R307). -/
def execReadStatusRegister (s : State) : Host.Outcome State Fault Refusal := .next (readStatus s)

/-- `writeTrackRegister` (42_fdc_ports.md R300). -/
def execWriteTrackRegister (v : Byte) (s : State) : Host.Outcome State Fault Refusal := .next (writeTrackReg v s)

/-- `readTrackRegister` (42_fdc_ports.md R301). -/
def execReadTrackRegister (s : State) : Host.Outcome State Fault Refusal :=
  .next (s.returns (.byte s.fdc.trackRegister))

/-- `writeSectorRegister` (42_fdc_ports.md R302). -/
def execWriteSectorRegister (v : Byte) (s : State) : Host.Outcome State Fault Refusal := .next (writeSectorReg v s)

/-- `readSectorRegister` (42_fdc_ports.md R303). -/
def execReadSectorRegister (s : State) : Host.Outcome State Fault Refusal :=
  .next (s.returns (.byte s.fdc.sectorRegister))

/-- `writeDataRegister` (42_fdc_ports.md R312). -/
def execWriteDataRegister (v : Byte) (s : State) : Host.Outcome State Fault Refusal := .next (writeData v s)

/-- `readDataRegister` (42_fdc_ports.md R310). -/
def execReadDataRegister (s : State) : Host.Outcome State Fault Refusal := .next (readData s)

/-- The register a peek names (42_fdc_ports.md R316). -/
def peekedRegister (a : BitVec 2) (f : Fdc) : Byte :=
  if a = 0 then f.statusRegister
  else if a = 1 then f.trackRegister
  else if a = 2 then f.sectorRegister
  else f.dataRegister

/-- `peekRegister` (42_fdc_ports.md R316). -/
def execPeekRegister (a : BitVec 2) (s : State) : Host.Outcome State Fault Refusal :=
  .next (s.returns (.byte (peekedRegister a s.fdc)))

/-- `getHeadPosition` (42_fdc_ports.md R317). -/
def execGetHeadPosition (s : State) : Host.Outcome State Fault Refusal := .next (s.returns (.word (headPosition s.fdc)))

/-- `getInterruptRequest` (42_fdc_ports.md R318). -/
def execGetInterruptRequest (s : State) : Host.Outcome State Fault Refusal :=
  .next (s.returns (.bool s.fdc.interruptRequestFlag))

/-- `getDataRequest` (42_fdc_ports.md R318). -/
def execGetDataRequest (s : State) : Host.Outcome State Fault Refusal :=
  .next (s.returns (.bool s.fdc.dataRequestFlag))

/-- `setDiskImageFile` (42_fdc_ports.md R320). -/
def execSetDiskImageFile (file : Option Nat) (readOnly : Bool) (nTracks nSides nSectors : Nat) (s : State) :
    Host.Outcome State Fault Refusal :=
  .next (finish (fun _ => .none) (setDiskImageFile file readOnly nTracks nSides nSectors s))

/-- `setSide`: bit 0 of the operand (42_fdc_ports.md R319). -/
def execSetSide (h : Byte) (s : State) : Host.Outcome State Fault Refusal :=
  .next ((s.setFdc { s.fdc with currentSide := h.extractLsb' 0 1 }).returns .none)

/-- `resetFdc` (70_reset_and_hazards.md R603). -/
def execResetFdc (s : State) : Host.Outcome State Fault Refusal :=
  .next ((s.setFdc (s.fdc.resetKeepingImage s.params)).returns .none)

/-- `closeFdc` (42_fdc_ports.md R325). -/
def execCloseFdc (s : State) : Host.Outcome State Fault Refusal :=
  let s1 := endTransfer s
  .next ((s1.setFdc s1.fdc.detached).returns .none)

end Sys2Proof.Machine
end

