-- ==== Sys2Proof/Machine/Gcr.lean ====
section
/-! DEFINITION. The GCR codec: the code, the track encoder with fault injection, the track decoder, and the meanings of
the four codec operations (40_gcr_codec.md). -/

namespace Sys2Proof.Machine

/-! ### The code -/

/-- `gcrEncodeTable` (10_state.md R20). -/
def gcrEncodeTable : List (BitVec 5) :=
  [0x0A, 0x0B, 0x12, 0x13, 0x0E, 0x0F, 0x16, 0x17, 0x09, 0x19, 0x1A, 0x1B, 0x0D, 0x1D, 0x1E, 0x15]

/-- `gcrDecodeTable` (10_state.md R21). -/
def gcrDecodeTable : List Byte :=
  [0xFF, 0xFF, 0xFF, 0xFF, 0xFF, 0xFF, 0xFF, 0xFF, 0xFF, 0x08, 0x00, 0x01, 0xFF, 0x0C, 0x04, 0x05,
   0xFF, 0xFF, 0x02, 0x03, 0xFF, 0x0F, 0x06, 0x07, 0xFF, 0x09, 0x0A, 0x0B, 0xFF, 0x0D, 0x0E, 0xFF]

/-- The symbol of a nibble. -/
def gcrSymbol (n : BitVec 4) : BitVec 5 := gcrEncodeTable.getD n.toNat 0

/-- The nibble of a symbol, and whether the symbol is valid; an invalid symbol gives nibble 0 (40_gcr_codec.md
R201). -/
def gcrNibble (y : BitVec 5) : BitVec 4 × Bool :=
  let v := gcrDecodeTable.getD y.toNat 0xFF
  if 0x80 ≤ v then (0, false) else (v.extractLsb' 0 4, true)

/-- The two symbols of a byte, the high nibble's first (20_memory.md R86). -/
def gcrByte (b : Byte) : BitVec 10 := gcrSymbol (b.extractLsb' 4 4) ++ gcrSymbol (b.extractLsb' 0 4)

/-- The five bytes of a 40-bit group, most significant first (30_encoding.md R123). -/
def groupBytes (w : BitVec 40) : List Byte :=
  [w.extractLsb' 32 8, w.extractLsb' 24 8, w.extractLsb' 16 8, w.extractLsb' 8 8, w.extractLsb' 0 8]

/-- `gcrEncodeFourBytes` (40_gcr_codec.md R200). -/
def encodeFour (b0 b1 b2 b3 : Byte) : List Byte := groupBytes (gcrByte b0 ++ gcrByte b1 ++ gcrByte b2 ++ gcrByte b3)

/-- The byte of two symbols, and whether both are valid (40_gcr_codec.md R201). -/
def decodeSymbols (y : BitVec 10) : Byte × Bool :=
  let hi := gcrNibble (y.extractLsb' 5 5)
  let lo := gcrNibble (y.extractLsb' 0 5)
  (hi.1 ++ lo.1, hi.2 && lo.2)

/-- `gcrDecodeFourBytes` (40_gcr_codec.md R201). -/
def decodeFive (g0 g1 g2 g3 g4 : Byte) : List Byte × Bool :=
  let w : BitVec 40 := g0 ++ g1 ++ g2 ++ g3 ++ g4
  let p0 := decodeSymbols (w.extractLsb' 30 10)
  let p1 := decodeSymbols (w.extractLsb' 20 10)
  let p2 := decodeSymbols (w.extractLsb' 10 10)
  let p3 := decodeSymbols (w.extractLsb' 0 10)
  ([p0.1, p1.1, p2.1, p3.1], p0.2 && p1.2 && p2.2 && p3.2)

/-- The encoding of a block, four bytes at a time. -/
def encodeGroups : List Byte → List Byte
  | b0 :: b1 :: b2 :: b3 :: rest => encodeFour b0 b1 b2 b3 ++ encodeGroups rest
  | _ => []

/-- The decoding of a block, five bytes at a time, and whether every group is valid (40_gcr_codec.md R233). -/
def decodeGroupList : List Byte → List Byte × Bool
  | g0 :: g1 :: g2 :: g3 :: g4 :: rest =>
    let p := decodeFive g0 g1 g2 g3 g4
    let q := decodeGroupList rest
    (p.1 ++ q.1, p.2 && q.2)
  | _ => ([], true)

/-- The XOR of some bytes. -/
def xorBytes (bs : List Byte) : Byte := bs.foldl (· ^^^ ·) 0

/-! ### Error codes (30_encoding.md R133) -/

def codeOk : Byte := 0x01
def codeHeaderNotFound : Byte := 0x02
def codeSyncNotFound : Byte := 0x03
def codeDataNotFound : Byte := 0x04
def codeDataCrc : Byte := 0x05
def codeHeaderCrc : Byte := 0x09
def codeGcr : Byte := 0x10

/-! ### Track encoding -/

/-- The header of sector `s` of track `t` (40_gcr_codec.md R211). -/
def headerBlock (id1 id2 : Byte) (s t : Byte) : List Byte :=
  [0x08, s ^^^ t ^^^ id2 ^^^ id1, s, t, id2, id1, 0x0F, 0x0F]

/-- The data block of a sector (40_gcr_codec.md R212). -/
def dataBlock (sector : List Byte) : List Byte := [0x07] ++ sector ++ [xorBytes sector, 0x00, 0x00]

/-- The sync run before the header, faulted by code 0x03 (40_gcr_codec.md R213). -/
def headerSync (e : Byte) : List Byte := List.replicate 5 (if e = codeSyncNotFound then 0x55 else 0xFF)

/-- The header, faulted by codes 0x02 and 0x09 (40_gcr_codec.md R213). -/
def faultHeader (e : Byte) (h : List Byte) : List Byte :=
  if e = codeHeaderNotFound then h.set 0 0x00
  else if e = codeHeaderCrc then h.set 1 (h.getD 1 0 ^^^ 0xFF)
  else h

/-- The data block, faulted by codes 0x04 and 0x05 (40_gcr_codec.md R213). -/
def faultData (e : Byte) (b : List Byte) : List Byte :=
  if e = codeDataNotFound then b.set 0 0x00
  else if e = codeDataCrc then b.set 257 (b.getD 257 0 ^^^ 0xFF)
  else b

/-- The data GCR, faulted by code 0x10 (40_gcr_codec.md R213). -/
def faultGcr (e : Byte) (c : List Byte) : List Byte := if e = codeGcr then c.set 324 0x00 else c

/-- The layout of one sector (30_encoding.md R127, 40_gcr_codec.md R210). -/
def sectorLayout (p : Params) (id1 id2 trackNum : Byte) (nSectors : Nat) (s e : Byte) (sector : List Byte) : List Byte :=
  headerSync e ++ encodeGroups (faultHeader e (headerBlock id1 id2 s trackNum)) ++ List.replicate p.headerGap 0x55
    ++ List.replicate 5 0xFF ++ faultGcr e (encodeGroups (faultData e (dataBlock sector)))
    ++ List.replicate (tailGap p nSectors) 0x55

/-- The laid-out sectors of a track, in order (30_encoding.md R129). -/
def trackLayout (p : Params) (t : Tbm) (trackNum : Byte) (nSectors : Nat) : List Byte :=
  (List.range nSectors).flatMap fun s =>
    sectorLayout p t.idCharacter1 t.idCharacter2 trackNum nSectors (BitVec.ofNat 8 s) (t.bad.read s)
      (t.d64.readBytes (256 * s) 256)

/-- The operand domain of the track operations (40_gcr_codec.md R215). -/
def trackDomain (nSectors nBytes : Nat) : Bool := decide (nSectors ≤ 21) && decide (nBytes ≤ gcrBufCap)

/-- `gcrEncodeTrack` (40_gcr_codec.md R210, R214): the layout, padded with 0x55 or cut at `nBytes`; outside the domain
nothing changes (R215). -/
def encodeTrack (p : Params) (trackNum : Byte) (nSectors nBytes : Nat) (t : Tbm) : Tbm :=
  if trackDomain nSectors nBytes then
    let out := (trackLayout p t trackNum nSectors).take nBytes
    { t with gcr := t.gcr.writeBytes 0 (out ++ List.replicate (nBytes - out.length) 0x55) }
  else t

/-! ### Track decoding -/

/-- `G⟨F + i⟩` for a track of `n` bytes (00_scope.md R13). -/
def circular (g : Array Byte) (n f i : Nat) : Byte := g.getD ((f + i) % n) 0

/-- `firstSyncPos` (40_gcr_codec.md R231). -/
def firstSyncPos (g : Array Byte) (n : Nat) : Option Nat :=
  findFrom (fun p => circular g n 0 p == 0xFF && circular g n 0 (p + 1) == 0xFF
    && circular g n 0 (p + n - 1) != 0xFF) 0 n

/-- `isSync` (40_gcr_codec.md R232). -/
def isSync (b : Nat → Byte) (i : Nat) : Bool := b i == 0xFF && b (i + 1) == 0xFF

/-- `skipSync`: the end of a run of 0xFF, looked for at most `n` bytes on (40_gcr_codec.md R232). -/
def skipSync (b : Nat → Byte) (n k : Nat) : Nat := (findFrom (fun j => b j != 0xFF) k (n + 1)).getD (k + n)

/-- `decodeGroups(j, m)` (40_gcr_codec.md R233). -/
def decodeGroups (b : Nat → Byte) (j m : Nat) : List Byte × Bool :=
  decodeGroupList ((List.range (5 * m)).map fun i => b (j + i))

/-- The progress of a scan: where it stands, the codes and marks of the sectors, the count and the data recovered. -/
structure Scan where
  off   : Nat
  code  : List Byte
  seen  : List Bool
  count : Nat
  d64   : Memory
  deriving DecidableEq, Repr

/-- The end of a sector's scan with code `e`, going on at `off`. -/
def Scan.report (sc : Scan) (s : Nat) (e : Byte) (off : Nat) : Scan :=
  { sc with code := sc.code.set s e, seen := sc.seen.set s true, off := off }

/-- The data block of an attributed sector whose header is valid and ends at `j + 10` (40_gcr_codec.md R235, R236). -/
def scanData (b : Nat → Byte) (n s j : Nat) (sc : Scan) : Scan :=
  match findFrom (isSync b) (j + 10) n with
  | none => sc.report s codeDataNotFound (j + 10)
  | some k2 =>
    let j2 := skipSync b n k2
    if (decodeGroups b j2 1).1.getD 0 0 = 0x08 then sc.report s codeDataNotFound k2
    else
      let dt := decodeGroups b j2 65
      if dt.1.getD 0 0 ≠ 0x07 then sc.report s codeDataNotFound (j2 + 325)
      else if dt.2 = false then sc.report s codeGcr (j2 + 325)
      else if xorBytes ((dt.1.drop 1).take 257) ≠ 0 then sc.report s codeDataCrc (j2 + 325)
      else
        { sc.report s codeOk (j2 + 325) with
          count := sc.count + 1, d64 := sc.d64.writeBytes (256 * s) ((dt.1.drop 1).take 256) }

/-- One turn of the scan (40_gcr_codec.md R230): the next sync and, when it heads a header of this track, its sector.
Nothing when no sync is left. -/
def scanTurn (b : Nat → Byte) (n : Nat) (trackNum : Byte) (nSectors : Nat) (sc : Scan) : Option Scan :=
  match findFrom (isSync b) sc.off (n - sc.off) with
  | none => none
  | some k =>
    let j := skipSync b n k
    if b j ≠ 0x52 then some { sc with off := j }
    else
      let h := decodeGroups b j 2
      let s := (h.1.getD 2 0).toNat
      if h.2 = true ∧ s < nSectors ∧ h.1.getD 3 0 = trackNum ∧ sc.seen.getD s true = false then
        if h.1.getD 0 0 ≠ 0x08 then some (sc.report s codeHeaderNotFound (j + 10))
        else if xorBytes ((h.1.drop 1).take 5) ≠ 0 then some (sc.report s codeHeaderCrc (j + 10))
        else some (scanData b n s j sc)
      else some { sc with off := j + 10 }

/-- The scan: one pass of `n` bytes (40_gcr_codec.md R238); `fuel` bounds its turns. -/
def scanTrack (b : Nat → Byte) (n : Nat) (trackNum : Byte) (nSectors : Nat) : Nat → Scan → Scan
  | 0, sc => sc
  | fuel + 1, sc =>
    if sc.off < n then
      match scanTurn b n trackNum nSectors sc with
      | none => sc
      | some sc' => scanTrack b n trackNum nSectors fuel sc'
    else sc

/-- The scan before its first turn: every sector "sync not found" (40_gcr_codec.md R230). -/
def Scan.start (nSectors : Nat) (d64 : Memory) : Scan where
  off := 0
  code := List.replicate nSectors codeSyncNotFound
  seen := List.replicate nSectors false
  count := 0
  d64 := d64

/-- The scan of a whole track from its first sync run (40_gcr_codec.md R230, R231). Where R238's own inference, that a
rotated track decodes the same, disagrees with those two rules, they are followed (DEDUCED, notes/assumptions/29.md): of
two differing headers of one sector the first from there counts; and a sync run within the 325 data bytes that R230 skips
is not looked at, but a rotation can make it the first sync run, so that the scan starts inside that data block and the
block's sector, or a sector whose header stands there, gets another code. -/
def scanned (trackNum : Byte) (nSectors nBytes : Nat) (t : Tbm) : Scan :=
  let g := (t.gcr.readBytes 0 nBytes).toArray
  match firstSyncPos g nBytes with
  | none => Scan.start nSectors t.d64
  | some f => scanTrack (circular g nBytes f) nBytes trackNum nSectors nBytes (Scan.start nSectors t.d64)

/-- `gcrDecodeTrack` (40_gcr_codec.md R230, R237): the count of sectors without error, and TBM with the data and the
codes recovered; outside the domain 0 and nothing changes (R215). -/
def decodeTrack (trackNum : Byte) (nSectors nBytes : Nat) (t : Tbm) : Nat × Tbm :=
  if trackDomain nSectors nBytes then
    let sc := scanned trackNum nSectors nBytes t
    (sc.count, { t with d64 := sc.d64, bad := t.bad.writeBytes 0 sc.code })
  else (0, t)

/-! ### Meanings -/

/-- `gcrEncodeFourBytes` (40_gcr_codec.md R200). -/
def execGcrEncodeFourBytes (b0 b1 b2 b3 : Byte) (s : State) : Host.Outcome State Fault Refusal :=
  .next (s.returns (.bytes (encodeFour b0 b1 b2 b3)))

/-- `gcrDecodeFourBytes` (40_gcr_codec.md R201). -/
def execGcrDecodeFourBytes (g0 g1 g2 g3 g4 : Byte) (s : State) : Host.Outcome State Fault Refusal :=
  let p := decodeFive g0 g1 g2 g3 g4
  .next (s.returns (.decoded p.1 p.2))

/-- `gcrEncodeTrack` (40_gcr_codec.md R210). -/
def execGcrEncodeTrack (trackNum : Byte) (nSectors nBytes : Nat) (s : State) : Host.Outcome State Fault Refusal :=
  .next ((s.setTbm (encodeTrack s.params trackNum nSectors nBytes s.tbm)).returns .none)

/-- `gcrDecodeTrack` (40_gcr_codec.md R230). -/
def execGcrDecodeTrack (trackNum : Byte) (nSectors nBytes : Nat) (s : State) : Host.Outcome State Fault Refusal :=
  let p := decodeTrack trackNum nSectors nBytes s.tbm
  .next ((s.setTbm p.2).returns (.count p.1))

end Sys2Proof.Machine
end

