-- ==== Sys2Proof/Machine/TapeLegacy.lean ====
section
/-! DEFINITION. The LegacyTap tape format: the pulse stream of a C16 TAP file (30_encoding.md R163, R164), the decode
cursor and the seek index (44_tape.md R440 to R444). -/

namespace Sys2Proof.Machine

/-! ### Pulses -/

/-- The first pulse of a stream: its length in ticks and the bytes it takes; nothing where a zero byte has not three
bytes after it (30_encoding.md R164, 20_memory.md R91, 44_tape.md R442). -/
def readPulse : List Byte → Option (Nat × Nat)
  | [] => none
  | b :: rest =>
    if b ≠ 0x00 then some (8 * b.toNat, 1)
    else
      match rest with
      | p :: q :: r :: _ => some (p.toNat + 256 * q.toNat + 65536 * r.toNat, 4)
      | _ => none

/-- The half-waves of a pulse of length `len` (44_tape.md R442). -/
def halfWavesOf (v : TapVersion) (len : Nat) : List Nat :=
  match v with
  | .new => [len]
  | .old => [len / 2, len - len / 2]

/-- The half-wave lengths of a stream (44_tape.md R442); `fuel` bounds the pulses read. -/
def halfWavesFrom (v : TapVersion) : Nat → List Byte → List Nat
  | 0, _ => []
  | fuel + 1, bs =>
    match readPulse bs with
    | none => []
    | some (len, k) => halfWavesOf v len ++ halfWavesFrom v fuel (bs.drop k)

/-- The half-wave sequence of a file's pulse data (44_tape.md R442). -/
def halfWaves (v : TapVersion) (data : List Byte) : List Nat := halfWavesFrom v data.length data

/-! ### Cursor -/

/-- `nextHalf()`: the cursor with its next half-wave begun; ∞ at the end (44_tape.md R443). -/
def nextHalf (v : TapVersion) (data : List Byte) (c : TapCursor) : TapCursor :=
  match c.pendingHalf with
  | some h => { c with halfRemaining := some h, pendingHalf := none }
  | none =>
    match readPulse (data.drop c.dpos) with
    | none => { c with halfRemaining := none }
    | some (len, k) =>
      match v with
      | .new => { c with dpos := c.dpos + k, halfRemaining := some len }
      | .old => { c with
          dpos := c.dpos + k, halfRemaining := some (len / 2), pendingHalf := some (len - len / 2) }

/-- The cursor `adv` ticks on (44_tape.md R443); `fuel` bounds the half-waves that end on the way. -/
def advanceFrom (v : TapVersion) (data : List Byte) : Nat → Nat → TapCursor → TapCursor
  | 0, _, c => c
  | fuel + 1, adv, c =>
    match c.halfRemaining with
    | none => c
    | some h =>
      if h ≤ adv then advanceFrom v data fuel (adv - h) (nextHalf v data { c with level := !c.level })
      else { c with halfRemaining := some (h - adv) }

/-- The cursor `adv` ticks on: each pulse has at least one byte and at most two half-waves. -/
def advance (v : TapVersion) (data : List Byte) (adv : Nat) (c : TapCursor) : TapCursor :=
  advanceFrom v data (2 * data.length + 3) adv c

/-- The cursor before its first half-wave (44_tape.md R443). -/
def cursorStart : TapCursor := { dpos := 0, halfRemaining := none, level := false, pendingHalf := none }

/-- `cursorAt(p)`: the cursor at tick `16·p` (44_tape.md R440, R443). -/
def cursorAt (v : TapVersion) (data : List Byte) (p : Nat) : TapCursor :=
  advance v data (c16Downsample * p) (nextHalf v data cursorStart)

/-- The signal level as a sample of `r` bits (44_tape.md R443). -/
def levelSample (r : Nat) (level : Bool) : Byte := requantize 1 r (if level then 1 else 0)

/-- `readSample` at the cursor: the sample and the medium with the cursor one sample on (44_tape.md R443). -/
def readLegacy (t : Tape) (l : LegacyTape) : Byte × LegacyTape :=
  (levelSample t.requestedBitsPerSample l.cursor.level,
    { l with cursor := advance l.version l.pulseData c16Downsample l.cursor })

/-! ### Open (44_tape.md R441, R444) -/

/-- The tape's length in samples, `ceil(Ttotal / 16)` (44_tape.md R441), in a 32-bit field (00_scope.md R10). -/
def legacyLength (v : TapVersion) (data : List Byte) : Nat :=
  low32 (((halfWaves v data).sum + 15) / c16Downsample)

/-- The seek index: file and sample position once a second, at most 2700 entries (44_tape.md R444;
notes/assumptions/16.md). -/
def seekIndexOf (v : TapVersion) (data : List Byte) : List (Nat × Nat) :=
  (List.range (min c16IndexCap ((legacyLength v data + c16Rate - 1) / c16Rate))).map fun k =>
    (20 + (cursorAt v data (c16Rate * k)).dpos, c16Rate * k)

/-- The version a C16 TAP header names (30_encoding.md R163). -/
def parseLegacyHeader (h : List Byte) : Option TapVersion :=
  if h.take 12 = c16Magic then
    if h.getD 12 0 = 0x01 then some .old else if h.getD 12 0 = 0x02 then some .new else none
  else none

/-- The instance of a LegacyTap tape as it is opened. -/
def legacyTape (base : Tape) (v : TapVersion) (data : List Byte) : Tape :=
  { base with
    fileBitsPerSample := 1, sampleRate := c16Rate, tapeLength := legacyLength v data, cuePoints := [],
    medium := .legacyTap
      { version := v, pulseData := data, seekIndex := seekIndexOf v data, cursor := cursorAt v data 0 } }

/-- The pulse data of a file, read from byte 20 to its end; an empty range is no access (notes/assumptions/18.md). -/
def readPulseData (id : Nat) (s : State) : ReadOutcome × State :=
  let n := (s.store id).length - 20
  if n = 0 then (.ok [], s) else memRead id 20 n s

/-- `openLegacyTap` (44_tape.md R441). -/
def openLegacyTap (a : OpenArgs) (base : Tape) (s : State) : Except IoError Tape × State :=
  if a.mode ≠ .readOnly then (.error .badMode, s)
  else
    match memRead a.store 0 20 s with
    | (.short, s1) => (.error .badFormat, s1)
    | (.ioerr, s1) => (.error .read, s1)
    | (.ok h, s1) =>
      match parseLegacyHeader h with
      | none => (.error .badFormat, s1)
      | some v =>
        match readPulseData a.store s1 with
        | (.ok data, s2) => (.ok (legacyTape base v data), s2)
        | (_, s2) => (.error .read, s2)

end Sys2Proof.Machine
end

