-- ==== Sys2Proof/Machine/TapeNative.lean ====
section
/-! DEFINITION. The Native tape format: the header and the cue slots (30_encoding.md R160 to R162), the resident block
of 4096 samples and its write-back (44_tape.md R430 to R433). -/

namespace Sys2Proof.Machine

/-! ### Header (30_encoding.md R160, R161) -/

/-- The 1020 cue slots of a cue-point table: the cue points, then sentinels (30_encoding.md R161). -/
def slotBytes (cues : List Nat) : List Byte :=
  (cues ++ List.replicate (1020 - cues.length) cueSentinel).flatMap (beBytes 4)

/-- The 32-bit numbers of a byte list, most significant byte first. -/
def slotValues : List Byte → List Nat
  | b0 :: b1 :: b2 :: b3 :: rest => beNat [b0, b1, b2, b3] :: slotValues rest
  | _ => []

/-- The slots kept: each greater than the one kept before it (30_encoding.md R161). -/
def keepAscending : Option Nat → List Nat → List Nat
  | _, [] => []
  | none, c :: cs => c :: keepAscending (some c) cs
  | some m, c :: cs => if m < c then c :: keepAscending (some c) cs else keepAscending (some m) cs

/-- `readCueSlots`: at most 1019 slots, up to the first sentinel (30_encoding.md R161; notes/assumptions/15.md). -/
def readCueSlots (bs : List Byte) : List Nat :=
  keepAscending none (((slotValues bs).takeWhile fun c => c != cueSentinel).take cueCap)

/-- The header of a Native tape (30_encoding.md R160). -/
def nativeHeader (fileBits sampleRate : Nat) (cues : List Nat) : List Byte :=
  tapeMagic ++ beBytes 4 fileBits ++ beBytes 4 sampleRate ++ slotBytes cues

/-- The fields of a Native header: file bits, sample rate, cue points (44_tape.md R401). -/
def parseNativeHeader (h : List Byte) : Option (Nat × Nat × List Nat) :=
  let fileBits := be32 h 8
  let rate := be32 h 12
  if h.take 8 = tapeMagic ∧ validBits fileBits = true ∧ rate ≠ 0
  then some (fileBits, rate, readCueSlots (h.drop 16))
  else none

/-- The length of a Native tape in samples (30_encoding.md R162), in a 32-bit field (00_scope.md R10). -/
def nativeLength (storeLen fileBits : Nat) : Nat := low32 ((storeLen - 4096) * 8 / fileBits)

/-! ### Blocks (44_tape.md R432) -/

/-- The store offset of block `b` (20_memory.md R85, 44_tape.md R432). -/
def blockOffset (fileBits b : Nat) : Nat := 4096 + tapeBlock * b * fileBits / 8

/-- The samples below the tape's length that block `b` covers. -/
def blockCount (t : Tape) (b : Nat) : Nat := min tapeBlock (t.tapeLength - tapeBlock * b)

/-- The samples packed in some bytes, in order. -/
def unpackBytes (p : SamplePacking) (b : Nat) (bs : List Byte) : List Byte :=
  bs.flatMap fun v => (List.range (8 / b)).map fun k => unpackSample p b k v

/-- The load of block `b`: the stored samples below the length, else 0; a failed read gives 0 (44_tape.md R432). One
access, and none when the store holds no byte of the block (notes/assumptions/18.md). -/
def loadBlock (t : Tape) (b : Nat) (s : State) : Memory × State :=
  let off := blockOffset t.fileBitsPerSample b
  let n := min ((blockCount t b * t.fileBitsPerSample + 7) / 8) ((s.store t.store).length - off)
  if n = 0 then ([], s)
  else
    match memRead t.store off n s with
    | (.ok bs, s1) =>
      (Memory.ofBytes ((unpackBytes s1.params.samplePacking t.fileBitsPerSample bs).take (blockCount t b)), s1)
    | (_, s1) => ([], s1)

/-- `writeBlock(c)`: whether it failed, and the state it leaves; nothing for a block with no sample below the length
(44_tape.md R432). -/
def writeBlock (t : Tape) (n : NativeTape) (c : Nat) (s : State) : Bool × State :=
  if blockCount t c = 0 then (false, s)
  else memWrite t.store (blockOffset t.fileBitsPerSample c)
    (packSamples s.params.samplePacking t.fileBitsPerSample (n.blockBuf.readBytes 0 (blockCount t c))) s

/-- The resident block written back if it is dirty: whether that failed, and the state it leaves. -/
def writeBack (t : Tape) (n : NativeTape) (s : State) : Bool × State :=
  match n.blockIndex with
  | some c => if n.blockDirty then writeBlock t n c s else (false, s)
  | none => (false, s)

/-- Block `b` brought in: whether a write-back failed, the block, and the state it leaves (44_tape.md R432). -/
def bringIn (t : Tape) (n : NativeTape) (b : Nat) (s : State) : Bool × NativeTape × State :=
  if n.blockIndex = some b then (false, n, s)
  else
    let w := writeBack t n s
    let l := loadBlock t b w.2
    (w.1, { blockBuf := l.1, blockIndex := some b, blockDirty := false }, l.2)

/-! ### Samples -/

/-- `readSample(i)` of a Native tape: pending error, sample, block, state (44_tape.md R430). -/
def readNative (t : Tape) (n : NativeTape) (i : Nat) (s : State) : Bool × Byte × NativeTape × State :=
  let r := bringIn t n (i / tapeBlock) s
  (r.1, requantize t.fileBitsPerSample t.requestedBitsPerSample (r.2.1.blockBuf.read (i % tapeBlock)), r.2)

/-- `writeSample(i, v)` of a Native tape: pending error, block, state (44_tape.md R431). -/
def writeNative (t : Tape) (n : NativeTape) (i : Nat) (v : Byte) (s : State) : Bool × NativeTape × State :=
  let r := bringIn t n (i / tapeBlock) s
  (r.1,
    { r.2.1 with
      blockBuf := r.2.1.blockBuf.write (i % tapeBlock) (requantize t.requestedBitsPerSample t.fileBitsPerSample v),
      blockDirty := true },
    r.2.2)

/-- The cue slots written back if they changed and the tape may be written: whether that failed, and the state it
leaves (44_tape.md R433). -/
def writeCues (t : Tape) (s : State) : Bool × State :=
  if t.cueDirty ∧ t.mode ≠ .readOnly then memWrite t.store 16 (slotBytes t.cuePoints) s else (false, s)

/-- `flushTape()` of a Native tape: whether a write failed, the tape with its flags cleared, the state (44_tape.md
R433). -/
def flushNative (t : Tape) (n : NativeTape) (s : State) : Bool × Tape × State :=
  let w := writeBack t n s
  let c := writeCues t w.2
  (w.1 || c.1,
    { t with
      cueDirty := if t.mode = .readOnly then t.cueDirty else false,
      medium := .native { n with blockDirty := false } },
    c.2)

/-! ### Open (44_tape.md R401) -/

/-- The instance of a Native tape as it is opened: no block resident and none dirty (44_tape.md R401, 10_state.md R37).
The block buffer then holds no listed sample, so that each reads 0: its contents at open are the model's choice (DESIGN
CHOICE, notes/assumptions/27.md). -/
def nativeTape (base : Tape) (fileBits rate len : Nat) (cues : List Nat) : Tape :=
  { base with
    fileBitsPerSample := fileBits, sampleRate := rate, tapeLength := len, cuePoints := cues,
    medium := .native { blockBuf := [], blockIndex := none, blockDirty := false } }

/-- `openNative` (44_tape.md R401). -/
def openNative (a : OpenArgs) (base : Tape) (s : State) : Except IoError Tape × State :=
  if a.mode = .create then
    if a.sampleRate = 0 ∨ validBits a.fileBits = false then (.error .badFormat, s)
    else
      let w := memWrite a.store 0 (nativeHeader a.fileBits a.sampleRate []) s
      if w.1 then (.error .write, w.2) else (.ok (nativeTape base a.fileBits a.sampleRate 0 []), w.2)
  else
    match memRead a.store 0 4096 s with
    | (.short, s1) => (.error .badFormat, s1)
    | (.ioerr, s1) => (.error .read, s1)
    | (.ok h, s1) =>
      match parseNativeHeader h with
      | none => (.error .badFormat, s1)
      | some (fileBits, rate, cues) =>
        (.ok (nativeTape base fileBits rate (nativeLength (s1.store a.store).length fileBits) cues), s1)

end Sys2Proof.Machine
end

