-- ==== Sys2Proof/Machine/TapeSound.lean ====
section
/-! DEFINITION. The SoundFile tape format: the frames of an audio container, the conversion of samples and the resident
block of 1024 frames (44_tape.md R450 to R455). -/

namespace Sys2Proof.Machine

/-! ### Containers -/

/-- A container the rules admit: channels, a rate, every frame of one sample in -1..1 per channel (44_tape.md R450). -/
def validSound (c : Sound) : Bool :=
  decide (1 ≤ c.nChannels) && decide (0 < c.sampleRate)
    && c.frames.all fun f => decide (f.length = c.nChannels) && f.all fun x => decide (-1 ≤ x ∧ x ≤ 1)

/-- The container a store holds, if it is readable (44_tape.md R450; notes/assumptions/11.md). -/
def soundOf (st : Store) : Option Sound :=
  let c := match st with
    | .container c => some c
    | .bytes len cells => Config.readContainer (cells.readBytes 0 len)
  match c with
  | some c => if validSound c then some c else none
  | none => none

/-- The frames a store holds; none if its container is not readable. -/
def framesOf (st : Store) : List (List Rat) :=
  match soundOf st with
  | some c => c.frames
  | none => []

/-- The write of a whole container: whether it failed, and the state it leaves. -/
def putSound (id : Nat) (c : Sound) (s : State) : Bool × State :=
  if s.ioFails then (true, s.ioNext) else (false, s.ioNext.putStore id (.container c))

/-- A frame of silence. -/
def zeroFrame (n : Nat) : List Rat := List.replicate n 0

/-! ### Conversion -/

/-- A number of -1..1 as a sample of `r` bits: `min(max(floor((y + 1)·2^(r−1)), 0), 2^r − 1)` (44_tape.md R451). -/
def fromReal (r : Nat) (y : Rat) : Byte :=
  BitVec.ofNat 8 (min ((y + 1) * (2 ^ (r - 1) : Nat)).floor.toNat (2 ^ r - 1))

/-- A sample of `r` bits as a number of -1..1: `(v + 0.5) / 2^(r−1) − 1` (44_tape.md R452). -/
def toReal (r : Nat) (v : Byte) : Rat := ((v.toNat : Rat) + 1 / 2) / ((2 ^ (r - 1) : Nat) : Rat) - 1

/-! ### Blocks (44_tape.md R452 with R432 and R433) -/

/-- The frames below the tape's length that block `b` covers. -/
def frameCount (t : Tape) (b : Nat) : Nat := min soundBlock (t.tapeLength - soundBlock * b)

/-- `xs` cut or filled with silence to `n` frames of `k` channels. -/
def fitFrames (k n : Nat) (xs : List (List Rat)) : List (List Rat) :=
  xs.take n ++ List.replicate (n - xs.length) (zeroFrame k)

/-- The frames with `new` in place from frame `i` on, silence before it where there were none. -/
def overlayFrames (k i : Nat) (new old : List (List Rat)) : List (List Rat) :=
  fitFrames k i old ++ new ++ old.drop (i + new.length)

/-- The load of block `b`: the stored frames below the length, else silence; a failed read gives silence (44_tape.md
R432, R452). No access when the container holds no frame of the block (notes/assumptions/18.md). -/
def loadFrames (t : Tape) (f : SoundTape) (b : Nat) (s : State) : List (List Rat) × State :=
  let stored := ((framesOf (s.store t.store)).drop (soundBlock * b)).take (frameCount t b)
  if stored = [] then (fitFrames f.nChannels soundBlock [], s)
  else if s.ioFails then (fitFrames f.nChannels soundBlock [], s.ioNext)
  else (fitFrames f.nChannels soundBlock stored, s.ioNext)

/-- The write of frame block `c` (44_tape.md R432, R452). -/
def writeFrames (t : Tape) (f : SoundTape) (c : Nat) (s : State) : Bool × State :=
  if frameCount t c = 0 then (false, s)
  else putSound t.store
    { nChannels := f.nChannels, sampleRate := t.sampleRate,
      frames := overlayFrames f.nChannels (soundBlock * c) (f.frameBuf.take (frameCount t c))
        (framesOf (s.store t.store)) } s

/-- The resident frame block written back if it is dirty. -/
def writeBackFrames (t : Tape) (f : SoundTape) (s : State) : Bool × State :=
  match f.frameBlockIndex with
  | some c => if f.frameBlockDirty then writeFrames t f c s else (false, s)
  | none => (false, s)

/-- Frame block `b` brought in: whether a write-back failed, the block, and the state it leaves (44_tape.md R432). -/
def bringInFrames (t : Tape) (f : SoundTape) (b : Nat) (s : State) : Bool × SoundTape × State :=
  if f.frameBlockIndex = some b then (false, f, s)
  else
    let w := writeBackFrames t f s
    let l := loadFrames t f b w.2
    (w.1, { f with frameBuf := l.1, frameBlockIndex := some b, frameBlockDirty := false }, l.2)

/-! ### Samples -/

/-- The samples of the channel over the whole tape, the resident block in place (44_tape.md R451;
notes/assumptions/22.md). Seeing the stored frames outside that block is no store access and takes no fault draw (DESIGN
CHOICE, notes/assumptions/28.md). -/
def channelSamples (t : Tape) (f : SoundTape) (s : State) : List Rat :=
  let b := f.frameBlockIndex.getD 0
  let xs := overlayFrames f.nChannels (soundBlock * b) (f.frameBuf.take (frameCount t b)) (framesOf (s.store t.store))
  (fitFrames f.nChannels t.tapeLength xs).map fun frame => frame.getD f.channel 0

/-- Sample `i` of the channel, filtered where the tape and the model have a filter (44_tape.md R451, R455). -/
def channelSample (t : Tape) (f : SoundTape) (i : Nat) (s : State) : Rat :=
  if f.filterOn && s.params.soundFilterSupplied then Config.soundFilter (channelSamples t f s) i
  else (f.frameBuf.getD (i % soundBlock) []).getD f.channel 0

/-- The number negated when the tape is inverted. -/
def invertIf (b : Bool) (x : Rat) : Rat := if b then -x else x

/-- `readSample(i)` of a SoundFile tape: pending error, sample, block, state (44_tape.md R451). -/
def readSound (t : Tape) (f : SoundTape) (i : Nat) (s : State) : Bool × Byte × SoundTape × State :=
  let r := bringInFrames t f (i / soundBlock) s
  (r.1, fromReal t.requestedBitsPerSample (invertIf f.invert (channelSample t r.2.1 i r.2.2)), r.2)

/-- The frame a written sample gives: its value in the channel, 0 in the others (44_tape.md R452). -/
def writtenFrame (r : Nat) (f : SoundTape) (v : Byte) : List Rat :=
  (zeroFrame f.nChannels).set f.channel (invertIf f.invert (toReal r v))

/-- `writeSample(i, v)` of a SoundFile tape: pending error, block, state (44_tape.md R452). -/
def writeSound (t : Tape) (f : SoundTape) (i : Nat) (v : Byte) (s : State) : Bool × SoundTape × State :=
  let r := bringInFrames t f (i / soundBlock) s
  (r.1,
    { r.2.1 with
      frameBuf := r.2.1.frameBuf.set (i % soundBlock) (writtenFrame t.requestedBitsPerSample f v),
      frameBlockDirty := true },
    r.2.2)

/-- `flushTape()` of a SoundFile tape: its cue points are not stored (44_tape.md R433). -/
def flushSound (t : Tape) (f : SoundTape) (s : State) : Bool × Tape × State :=
  let w := writeBackFrames t f s
  (w.1, { t with medium := .soundFile { f with frameBlockDirty := false } }, w.2)

/-! ### Open (44_tape.md R450) -/

/-- The instance of a SoundFile tape as it is opened (44_tape.md R450, 70_reset_and_hazards.md R607), its length in a
32-bit field (00_scope.md R10). With no block resident the frame buffer holds no frame and is not dirty (DESIGN CHOICE,
notes/assumptions/27.md). -/
def soundTape (a : OpenArgs) (base : Tape) (c : Sound) : Tape :=
  { base with
    fileBitsPerSample := 8, sampleRate := c.sampleRate, tapeLength := low32 c.frames.length, cuePoints := [],
    medium := .soundFile
      { channel := a.channel, invert := a.invert, filterOn := a.filterOn, nChannels := c.nChannels,
        frameBuf := [], frameBlockIndex := none, frameBlockDirty := false } }

/-- The container a `Create` makes (44_tape.md R450). -/
def emptySound (rate : Nat) : Sound := { nChannels := 1, sampleRate := rate, frames := [] }

/-- `openSoundFile` (44_tape.md R450; the order of its checks and a failed read: notes/assumptions/12.md). -/
def openSoundFile (a : OpenArgs) (base : Tape) (s : State) : Except IoError Tape × State :=
  if a.mode = .create then
    if a.sampleRate = 0 ∨ 1 ≤ a.channel then (.error .badFormat, s)
    else
      let w := putSound a.store (emptySound a.sampleRate) s
      if w.1 then (.error .write, w.2) else (.ok (soundTape a base (emptySound a.sampleRate)), w.2)
  else if s.ioFails then (.error .badFormat, s.ioNext)
  else
    match soundOf (s.store a.store) with
    | none => (.error .badFormat, s.ioNext)
    | some c =>
      if c.nChannels ≤ a.channel then (.error .badFormat, s.ioNext) else (.ok (soundTape a base c), s.ioNext)

end Sys2Proof.Machine
end

