-- ==== Sys2Proof/Machine/Tape.lean ====
section
/-! DEFINITION. The tape deck: opening and closing, transport, the sample tick, positioning, cue points, and the meanings
of its operations (44_tape.md). -/

namespace Sys2Proof.Machine

/-! ### Samples of any format -/

/-- `readSample(i)`: pending error, sample, tape, state (44_tape.md R430, R443, R451). -/
def readSample (t : Tape) (i : Nat) (s : State) : Bool × Byte × Tape × State :=
  match t.medium with
  | .native n =>
    let r := readNative t n i s
    (r.1, r.2.1, { t with medium := .native r.2.2.1 }, r.2.2.2)
  | .legacyTap l =>
    let r := readLegacy t l
    (false, r.1, { t with medium := .legacyTap r.2 }, s)
  | .soundFile f =>
    let r := readSound t f i s
    (r.1, r.2.1, { t with medium := .soundFile r.2.2.1 }, r.2.2.2)

/-- `writeSample(i, v)`: pending error, tape, state (44_tape.md R431, R452). A LegacyTap tape is never written (R404). -/
def writeSample (t : Tape) (i : Nat) (v : Byte) (s : State) : Bool × Tape × State :=
  match t.medium with
  | .native n =>
    let r := writeNative t n i v s
    (r.1, { t with medium := .native r.2.1 }, r.2.2)
  | .legacyTap _ => (false, t, s)
  | .soundFile f =>
    let r := writeSound t f i v s
    (r.1, { t with medium := .soundFile r.2.1 }, r.2.2)

/-! ### Flush (44_tape.md R433) -/

/-- `flushTape()` of a tape: whether a write failed, the tape, the state. -/
def flushMedium (t : Tape) (s : State) : Bool × Tape × State :=
  match t.medium with
  | .native n => flushNative t n s
  | .legacyTap _ => (false, t, s)
  | .soundFile f => flushSound t f s

/-- `t` flushed and put in the deck; a failed write raises `HostIoError(write)` once the flags are cleared. -/
def flushInto (t : Tape) (s : State) : State :=
  let r := flushMedium t s
  let s1 := r.2.2.setTape (some r.2.1)
  if r.1 then s1.raise .write else s1.returns .none

/-- An operation with no result on the open tape; with none open nothing changes (44_tape.md R402). -/
def onTape (f : Tape → State → State) (s : State) : Host.Outcome State Fault Refusal :=
  match s.tape with
  | none => .next (s.returns .none)
  | some t => .next (f t s)

/-- The open tape replaced, with result `r`. -/
def State.withTape (s : State) (t : Tape) (r : Result) : State := (s.setTape (some t)).returns r

/-! ### The sample tick (44_tape.md R410) -/

/-- `deleteCueAt(p)` (44_tape.md R426). -/
def deleteCueAt (p : Nat) (t : Tape) : Tape :=
  if p ∈ t.cuePoints then { t with cuePoints := t.cuePoints.filter (fun c => c != p), cueDirty := true } else t

/-- The tick's end: the tape in the deck, and a pending error raised after the whole state change. -/
def endTick (failed : Bool) (t : Tape) (s : State) : State :=
  if failed then (s.setTape (some t)).raise .write else s.withTape t .none

/-- One sample recorded at the tape position (44_tape.md R410). -/
def recordTick (t : Tape) (s : State) : State :=
  let w := writeSample (deleteCueAt t.tapePosition t) t.tapePosition t.outputState s
  endTick w.1
    { w.2.1 with
      tapePosition := t.tapePosition + 1, tapeLength := max t.tapeLength (t.tapePosition + 1), inputState := 0 }
    w.2.2

/-- One sample played from the tape position (44_tape.md R410). -/
def playTick (t : Tape) (s : State) : State :=
  let r := readSample t t.tapePosition s
  endTick r.1 { r.2.2.1 with tapePosition := t.tapePosition + 1, inputState := r.2.1 } r.2.2.2

/-- `runOneSample_` on the open tape (44_tape.md R410, 60_exceptions.md R535). A tape whose length field is 0xFFFFFFFF
has one position past the limit; recording stands still there too (DESIGN CHOICE, notes/assumptions/14.md). -/
def tick (t : Tape) (s : State) : State :=
  if t.isMotorOn && t.isRecordOn then
    if tapeLimit ≤ t.tapePosition then s.withTape { t with inputState := 0 } .none else recordTick t s
  else if t.isMotorOn && t.isPlaybackOn && decide (t.tapePosition < t.tapeLength) then playTick t s
  else s.withTape { t with inputState := 0 } .none

/-! ### Positioning (44_tape.md R420, R421) -/

/-- The tape moved to sample `p`, the cursor of a LegacyTap tape with it. -/
def Tape.moveTo (t : Tape) (p : Nat) : Tape :=
  { t with
    tapePosition := p,
    medium := match t.medium with
      | .legacyTap l => .legacyTap { l with cursor := cursorAt l.version l.pulseData p }
      | m => m }

/-- Where `seek(t)` goes (44_tape.md R420). -/
def seekTarget (secs : Rat) (t : Tape) : Nat := clampPosition (floorSamples secs t.sampleRate) t.tapeLength

/-- The most `seekToCuePoint` moves: `max(floor(maxSkipSeconds · rate), 0)` (44_tape.md R421). -/
def maxSkip (secs : Rat) (t : Tape) : Int := max (floorSamples secs t.sampleRate) 0

/-- The cue points in range (44_tape.md R421). -/
def cuesInRange (forward : Bool) (m : Int) (t : Tape) : List Nat :=
  t.cuePoints.filter fun c =>
    if forward then decide (t.tapePosition < c) && decide ((c : Int) ≤ t.tapePosition + m)
    else decide ((t.tapePosition : Int) - m ≤ c) && decide (c < t.tapePosition)

/-- Where `seekToCuePoint` goes: the nearest cue point in range, else the whole skip (44_tape.md R421). -/
def cueTarget (forward : Bool) (secs : Rat) (t : Tape) : Nat :=
  let m := maxSkip secs t
  let cs := cuesInRange forward m t
  let p : Int :=
    if forward then
      match cs.min? with
      | some c => c
      | none => t.tapePosition + m
    else
      match cs.max? with
      | some c => c
      | none => t.tapePosition - m
  clampPosition p t.tapeLength

/-! ### Cue points (44_tape.md R422, R423) -/

/-- `p` put into an ascending list. -/
def insertCue (p : Nat) : List Nat → List Nat
  | [] => [p]
  | c :: cs => if p < c then p :: c :: cs else c :: insertCue p cs

/-- How far a cue point is from the tape position. -/
def cueDistance (p c : Nat) : Nat := if p ≤ c then c - p else p - c

/-- The cue point nearest to `p`, the lower one on a tie, of an ascending list (44_tape.md R423). -/
def nearestCue (p : Nat) : List Nat → Option Nat
  | [] => none
  | c :: cs =>
    match nearestCue p cs with
    | none => some c
    | some d => if cueDistance p c ≤ cueDistance p d then some c else some d

/-! ### Open and close (44_tape.md R400, R425) -/

/-- The common fields of a tape "at open" (10_state.md R36); the format's fields come from its open rule, which
replaces the `medium` that stands here. -/
def openingTape (a : OpenArgs) : Tape where
  store := a.store
  mode := a.mode
  isPlaybackOn := false
  isRecordOn := false
  isMotorOn := false
  tapePosition := 0
  tapeLength := 0
  sampleRate := 0
  fileBitsPerSample := 8
  requestedBitsPerSample := a.requestedBits
  inputState := 0
  outputState := 0
  cuePoints := []
  cueDirty := false
  medium := .native { blockBuf := [], blockIndex := none, blockDirty := false }

/-- The open of a tape of each format (44_tape.md R400). -/
def openFormat (a : OpenArgs) (s : State) : Except IoError Tape × State :=
  match a.fmt with
  | .native => openNative a (openingTape a) s
  | .legacyTap => openLegacyTap a (openingTape a) s
  | .soundFile => openSoundFile a (openingTape a) s

/-- `closeTape()`: flush, any host error discarded, and no tape (44_tape.md R425). -/
def closeTape (s : State) : State :=
  match s.tape with
  | none => s
  | some t => (flushMedium t s).2.2.setTape none

/-- `openTape` (44_tape.md R400): after a host error no tape exists. -/
def openTape (a : OpenArgs) (s : State) : State :=
  let s1 := closeTape s
  if validBits a.requestedBits then
    match openFormat a s1 with
    | (.ok t, s2) => s2.withTape t .none
    | (.error k, s2) => s2.raise k
  else s1.raise .badFormat

/-! ### Meanings -/

/-- `openTape` (44_tape.md R400). -/
def execOpenTape (a : OpenArgs) (s : State) : Host.Outcome State Fault Refusal := .next (openTape a s)

/-- `play` (44_tape.md R403). -/
def execPlay (s : State) : Host.Outcome State Fault Refusal :=
  onTape (fun t s => s.withTape { t with isRecordOn := false, isPlaybackOn := true } .none) s

/-- `record`: refused on a ReadOnly or LegacyTap tape (44_tape.md R404). -/
def execRecord (s : State) : Host.Outcome State Fault Refusal :=
  onTape (fun t s =>
    match t.mode, t.medium with
    | .readOnly, _ => s.returns .none
    | _, .legacyTap _ => s.returns .none
    | _, _ => s.withTape { t with isRecordOn := true, isPlaybackOn := true } .none) s

/-- `stop` (44_tape.md R405). -/
def execStop (s : State) : Host.Outcome State Fault Refusal :=
  onTape (fun t s => flushInto { t with isPlaybackOn := false, isRecordOn := false } s) s

/-- `setIsMotorOn`: motor-off flushes (44_tape.md R406). -/
def execSetIsMotorOn (b : Bool) (s : State) : Host.Outcome State Fault Refusal :=
  onTape (fun t s =>
    if t.isMotorOn && !b then flushInto { t with isMotorOn := false } s
    else s.withTape { t with isMotorOn := b } .none) s

/-- `runOneSample_` (44_tape.md R410). -/
def execRunOneSample (s : State) : Host.Outcome State Fault Refusal := onTape tick s

/-- `getInputSignal` (44_tape.md R407, R402). -/
def execGetInputSignal (s : State) : Host.Outcome State Fault Refusal :=
  match s.tape with
  | none => .next (s.returns (.byte 0))
  | some t => .next (s.returns (.byte t.inputState))

/-- `setOutputSignal` (44_tape.md R408). -/
def execSetOutputSignal (v : Byte) (s : State) : Host.Outcome State Fault Refusal :=
  onTape (fun t s => s.withTape { t with outputState := lowBits t.requestedBitsPerSample v } .none) s

/-- `seek` (44_tape.md R420). -/
def execTapeSeek (secs : Rat) (s : State) : Host.Outcome State Fault Refusal :=
  onTape (fun t s => flushInto (t.moveTo (seekTarget secs t)) s) s

/-- `seekToCuePoint` (44_tape.md R421). -/
def execSeekToCuePoint (forward : Bool) (secs : Rat) (s : State) : Host.Outcome State Fault Refusal :=
  onTape (fun t s => flushInto (t.moveTo (cueTarget forward secs t)) s) s

/-- `addCuePoint` (44_tape.md R422, R402). The sentinel position, which R422 says cannot occur, takes no cue point (DESIGN
CHOICE, notes/assumptions/14.md). -/
def execAddCuePoint (s : State) : Host.Outcome State Fault Refusal :=
  match s.tape with
  | none => .next (s.returns (.bool false))
  | some t =>
    if t.tapePosition ∈ t.cuePoints then .next (s.returns (.bool true))
    else if t.cuePoints.length = cueCap ∨ t.tapePosition = cueSentinel then .next (s.returns (.bool false))
    else .next (s.withTape { t with cuePoints := insertCue t.tapePosition t.cuePoints, cueDirty := true } (.bool true))

/-- `deleteNearestCuePoint` (44_tape.md R423, R402). -/
def execDeleteNearestCuePoint (s : State) : Host.Outcome State Fault Refusal :=
  match s.tape with
  | none => .next (s.returns (.bool false))
  | some t =>
    match nearestCue t.tapePosition t.cuePoints with
    | none => .next (s.returns (.bool false))
    | some c =>
      .next (s.withTape { t with cuePoints := t.cuePoints.filter (fun d => d != c), cueDirty := true } (.bool true))

/-- `deleteAllCuePoints` (44_tape.md R424). -/
def execDeleteAllCuePoints (s : State) : Host.Outcome State Fault Refusal :=
  onTape (fun t s => s.withTape { t with cuePoints := [], cueDirty := t.cueDirty || !t.cuePoints.isEmpty } .none) s

/-- `getTapeInfo` (44_tape.md R409, R402). -/
def execGetTapeInfo (s : State) : Host.Outcome State Fault Refusal :=
  match s.tape with
  | none => .next (s.returns (.tapeInfo 0 0 0 false false false []))
  | some t =>
    .next (s.returns
      (.tapeInfo t.tapePosition t.tapeLength t.sampleRate t.isPlaybackOn t.isRecordOn t.isMotorOn t.cuePoints))

/-- `closeTape` (44_tape.md R425). -/
def execCloseTape (s : State) : Host.Outcome State Fault Refusal := .next ((closeTape s).returns .none)

end Sys2Proof.Machine
end

