-- ==== Sys2Proof/Machine/TrackBuffer.lean ====
section
/-! DEFINITION. The track buffer manager: the one-track write-back cache over a D64 store and the meanings of its
operations (41_track_buffer.md). -/

namespace Sys2Proof.Machine

/-- The offset of the error table (41_track_buffer.md, `ERRBASE`). -/
def errBase (p : Params) (t : Tbm) : Nat := trackOffset p (t.nTracks.toNat + 1)

/-- The track is in the image: `1 ≤ t ≤ nTracks`. -/
def inImage (t : Tbm) (track : Int) : Bool := decide (1 ≤ track) && decide (track ≤ (t.nTracks.toNat : Int))

/-- Both buffers zero and every code 0x01, not dirty (41_track_buffer.md R250). -/
def Tbm.cleared (t : Tbm) : Tbm := { t with gcr := [], d64 := [], bad := badAllOk, trackDirtyFlag := false }

/-- TBM with track `track` loaded from the bytes `data` and the codes `bad` and encoded (41_track_buffer.md R250). -/
def Tbm.loaded (t : Tbm) (p : Params) (track : Nat) (data : List Byte) (bad : Memory) : Tbm :=
  encodeTrack p (BitVec.ofNat 8 track) (sectorsPerTrack p track) (trackSize p track)
    { t with d64 := Memory.ofBytes data, bad := bad }

/-- The load of a track of the image from its store, once the buffers are cleared (41_track_buffer.md R250). -/
def loadTrack (id track : Nat) (s : State) : Bool × State :=
  match memRead id (trackOffset s.params track) (256 * sectorsPerTrack s.params track) s with
  | (.ok data, s1) =>
    if s1.tbm.hasErrorTable then
      match memRead id (errBase s1.params s1.tbm + trackOffset s1.params track / 256) (sectorsPerTrack s1.params track) s1 with
      | (.ok codes, s2) => (true, s2.setTbm (s2.tbm.loaded s2.params track data (s2.tbm.bad.writeBytes 0 codes)))
      | (_, s2) => (false, s2)
    else (true, s1.setTbm (s1.tbm.loaded s1.params track data s1.tbm.bad))
  | (_, s1) => (false, s1)

/-- `readTrack` (41_track_buffer.md R250, R251). -/
def readTrack (trackNum : Int) (s : State) : Bool × State :=
  let t := trackArg trackNum s.tbm.currentTrack
  let s1 := s.setTbm { s.tbm.cleared with currentTrack := BitVec.ofInt 8 t }
  match s1.tbm.imageFile with
  | none => (false, s1)
  | some id => if inImage s1.tbm t then loadTrack id t.toNat s1 else (false, s1)

/-- The write-back of a decoded track: the sectors and, when there is one, the error table (41_track_buffer.md
R252). -/
def writeTrack (id track : Nat) (s : State) : Except IoError Bool × State :=
  let n := sectorsPerTrack s.params track
  let off := trackOffset s.params track
  let w := memWrite id off (s.tbm.d64.readBytes 0 (256 * n)) s
  if w.1 then (.error .write, w.2)
  else if s.tbm.hasErrorTable then
    let e := memWrite id (errBase s.params s.tbm + off / 256) (s.tbm.bad.readBytes 0 n) w.2
    if e.1 then (.error .write, e.2) else (.ok true, e.2)
  else (.ok true, w.2)

/-- `flushTrack` (41_track_buffer.md R252 to R254). -/
def flushTrack (trackNum : Int) (s : State) : Except IoError Bool × State :=
  let cur : Int := s.tbm.currentTrack.toNat
  if trackArg trackNum s.tbm.currentTrack ≠ cur then (.ok true, s)
  else if s.tbm.trackDirtyFlag = false then (.ok true, s)
  else
    let track := s.tbm.currentTrack.toNat
    let clean := s.setTbm { s.tbm with trackDirtyFlag := false }
    match s.tbm.imageFile with
    | none => (.ok true, clean)
    | some id =>
      if s.tbm.readOnly || !inImage s.tbm cur then (.ok true, clean)
      else
        let p := decodeTrack s.tbm.currentTrack (sectorsPerTrack s.params track) (trackSize s.params track) clean.tbm
        if p.1 = 0 then (.ok true, s.setTbm p.2) else writeTrack id track (s.setTbm p.2)

/-- `setCurrentTrack` (41_track_buffer.md R255): a host error of the flush becomes the result false (90_conflicts.md
C11). -/
def setCurrentTrack (trackNum : Int) (s : State) : Bool × State :=
  let t := clampTrack trackNum
  if t = (s.tbm.currentTrack.toNat : Int) then (true, s)
  else
    let f := flushTrack (-1) s
    let ok1 := match f.1 with
      | .ok b => b
      | .error _ => false
    let r := readTrack (-1) (f.2.setTbm { f.2.tbm with currentTrack := BitVec.ofInt 8 t })
    (ok1 && r.1, r.2)

/-- `detach()` (41_track_buffer.md R259). -/
def Tbm.detached (t : Tbm) (p : Params) : Tbm :=
  { Tbm.construct p with diskID := t.diskID, idCharacter1 := t.idCharacter1, idCharacter2 := t.idCharacter2 }

/-- The disk-ID rotation (41_track_buffer.md R258). -/
def Tbm.rotated (t : Tbm) : Tbm :=
  let d := t.diskID + 1
  { t with
    diskID := d,
    idCharacter1 := 0x41 + (d.extractLsb' 4 4).setWidth 8,
    idCharacter2 := 0x41 + (d.extractLsb' 0 4).setWidth 8 }

/-- The attach of a new image to a detached TBM (41_track_buffer.md R256, R260). -/
def attachImage (id : Nat) (readOnly : Bool) (s : State) : Except IoError Unit × State :=
  match d64Layout (s.store id).length with
  | none => (.error .badLength, s)
  | some (n, err) =>
    let r := setCurrentTrack 18
      (s.setTbm { s.tbm with
        imageFile := some id, readOnly := readOnly, hasErrorTable := err,
        nTracks := BitVec.ofNat 8 (35 + (n - 683) / 17) })
    if r.1 then (.ok (), r.2) else (.error .read, r.2)

/-- `setImageFile` (41_track_buffer.md R256). -/
def setImageFile (file : Option Nat) (readOnly : Bool) (s : State) : Except IoError Unit × State :=
  let f := match s.tbm.imageFile with
    | none => (Except.ok true, s)
    | some _ => flushTrack (-1) s
  let s1 := f.2.setTbm (f.2.tbm.detached f.2.params).rotated
  match f.1, file with
  | .error k, _ => (.error k, s1)
  | .ok _, none => (.ok (), s1)
  | .ok _, some id => attachImage id readOnly s1

/-! ### Meanings -/

/-- `setImageFile` (41_track_buffer.md R256). -/
def execSetImageFile (file : Option Nat) (readOnly : Bool) (s : State) : Host.Outcome State Fault Refusal :=
  .next (finish (fun _ => .none) (setImageFile file readOnly s))

/-- `readTrack` (41_track_buffer.md R250). -/
def execReadTrack (trackNum : Int) (s : State) : Host.Outcome State Fault Refusal :=
  let r := readTrack trackNum s
  .next (r.2.returns (.bool r.1))

/-- `flushTrack` (41_track_buffer.md R252). -/
def execFlushTrack (trackNum : Int) (s : State) : Host.Outcome State Fault Refusal :=
  .next (finish .bool (flushTrack trackNum s))

/-- `setCurrentTrack` (41_track_buffer.md R255). -/
def execSetCurrentTrack (trackNum : Int) (s : State) : Host.Outcome State Fault Refusal :=
  let r := setCurrentTrack trackNum s
  .next (r.2.returns (.bool r.1))

/-- `gcrReadByte` (41_track_buffer.md R262). -/
def execGcrReadByte (i : Nat) (s : State) : Host.Outcome State Fault Refusal :=
  let n := trackSize s.params s.tbm.currentTrack.toNat
  .next (s.returns (.byte (if n = 0 then 0x00 else s.tbm.gcr.read (i % n))))

/-- `gcrWriteByte` (41_track_buffer.md R263). -/
def execGcrWriteByte (i : Nat) (v : Byte) (s : State) : Host.Outcome State Fault Refusal :=
  let n := trackSize s.params s.tbm.currentTrack.toNat
  if n = 0 then .next (s.returns .none)
  else .next ((s.setTbm { s.tbm with gcr := s.tbm.gcr.write (i % n) v, trackDirtyFlag := true }).returns .none)

/-- `getTrackInfo` (41_track_buffer.md R264). -/
def execGetTrackInfo (s : State) : Host.Outcome State Fault Refusal :=
  let t := s.tbm
  .next (s.returns (.trackInfo t.currentTrack (trackSize s.params t.currentTrack.toNat)
    (sectorsPerTrack s.params t.currentTrack.toNat) t.readOnly))

/-- `setSectorErrorCode` (41_track_buffer.md R265). -/
def execSetSectorErrorCode (sector : Nat) (code : Byte) (s : State) : Host.Outcome State Fault Refusal :=
  if sector < badTableLen then
    .next ((s.setTbm { s.tbm with bad := s.tbm.bad.write sector code }).returns .none)
  else .next (s.returns .none)

/-- `getSectorErrorCode` (41_track_buffer.md R266). -/
def execGetSectorErrorCode (sector : Nat) (s : State) : Host.Outcome State Fault Refusal :=
  .next (s.returns (.byte (if sector < badTableLen then s.tbm.bad.read sector else 0x00)))

/-- `closeD64`: a host error of the flush is discarded (41_track_buffer.md R267). -/
def execCloseD64 (s : State) : Host.Outcome State Fault Refusal :=
  let f := flushTrack (-1) s
  .next ((f.2.setTbm (f.2.tbm.detached f.2.params)).returns .none)

end Sys2Proof.Machine
end

