-- ==== Sys2Proof/Machine/Dispatch.lean ====
section
/-! DEFINITION. What each instruction does: one meaning for each constructor of `Instr`. -/

namespace Sys2Proof.Machine

/-- The execution of one instruction. -/
def exec (i : Instr) (s : State) : Host.Outcome State Fault Refusal :=
  match i with
  | .restore h v r => Sys2Proof.Machine.execRestore h v r s
  | .seek h v r => Sys2Proof.Machine.execSeek h v r s
  | .step u h v r => Sys2Proof.Machine.execStep u h v r s
  | .stepIn u h v r => Sys2Proof.Machine.execStepIn u h v r s
  | .stepOut u h v r => Sys2Proof.Machine.execStepOut u h v r s
  | .rdsec m hs e pc b0 => Sys2Proof.Machine.execRdsec m hs e pc b0 s
  | .wrsec m hs e pc a0 => Sys2Proof.Machine.execWrsec m hs e pc a0 s
  | .rdaddr hs e b1 b0 => Sys2Proof.Machine.execRdaddr hs e b1 b0 s
  | .forceint i3 i2 i1 i0 => Sys2Proof.Machine.execForceint i3 i2 i1 i0 s
  | .rdtrk hs e b1 b0 => Sys2Proof.Machine.execRdtrk hs e b1 b0 s
  | .wrtrk hs e p b0 => Sys2Proof.Machine.execWrtrk hs e p b0 s
  | .st => Sys2Proof.Machine.execSt s
  | .cmd v => Sys2Proof.Machine.execCmd v s
  | .rtr => Sys2Proof.Machine.execRtr s
  | .wtr v => Sys2Proof.Machine.execWtr v s
  | .rsr => Sys2Proof.Machine.execRsr s
  | .wsr v => Sys2Proof.Machine.execWsr v s
  | .rdr => Sys2Proof.Machine.execRdr s
  | .wdr v => Sys2Proof.Machine.execWdr v s
  | .gcrEncodeFourBytes b0 b1 b2 b3 => Sys2Proof.Machine.execGcrEncodeFourBytes b0 b1 b2 b3 s
  | .gcrDecodeFourBytes g0 g1 g2 g3 g4 => Sys2Proof.Machine.execGcrDecodeFourBytes g0 g1 g2 g3 g4 s
  | .gcrEncodeTrack trackNum nSectors nBytes => Sys2Proof.Machine.execGcrEncodeTrack trackNum nSectors nBytes s
  | .gcrDecodeTrack trackNum nSectors nBytes => Sys2Proof.Machine.execGcrDecodeTrack trackNum nSectors nBytes s
  | .setImageFile file readOnly => Sys2Proof.Machine.execSetImageFile file readOnly s
  | .readTrack trackNum => Sys2Proof.Machine.execReadTrack trackNum s
  | .flushTrack trackNum => Sys2Proof.Machine.execFlushTrack trackNum s
  | .setCurrentTrack trackNum => Sys2Proof.Machine.execSetCurrentTrack trackNum s
  | .gcrReadByte n => Sys2Proof.Machine.execGcrReadByte n s
  | .gcrWriteByte n v => Sys2Proof.Machine.execGcrWriteByte n v s
  | .getTrackInfo => Sys2Proof.Machine.execGetTrackInfo s
  | .setSectorErrorCode sector code => Sys2Proof.Machine.execSetSectorErrorCode sector code s
  | .getSectorErrorCode sector => Sys2Proof.Machine.execGetSectorErrorCode sector s
  | .closeD64 => Sys2Proof.Machine.execCloseD64 s
  | .writeCommandRegister v => Sys2Proof.Machine.execWriteCommandRegister v s
  | .readStatusRegister => Sys2Proof.Machine.execReadStatusRegister s
  | .writeTrackRegister v => Sys2Proof.Machine.execWriteTrackRegister v s
  | .readTrackRegister => Sys2Proof.Machine.execReadTrackRegister s
  | .writeSectorRegister v => Sys2Proof.Machine.execWriteSectorRegister v s
  | .readSectorRegister => Sys2Proof.Machine.execReadSectorRegister s
  | .writeDataRegister v => Sys2Proof.Machine.execWriteDataRegister v s
  | .readDataRegister => Sys2Proof.Machine.execReadDataRegister s
  | .peekRegister a => Sys2Proof.Machine.execPeekRegister a s
  | .getHeadPosition => Sys2Proof.Machine.execGetHeadPosition s
  | .getInterruptRequest => Sys2Proof.Machine.execGetInterruptRequest s
  | .getDataRequest => Sys2Proof.Machine.execGetDataRequest s
  | .setDiskImageFile file readOnly nTracks nSides nSectorsPerTrack => Sys2Proof.Machine.execSetDiskImageFile file readOnly nTracks nSides nSectorsPerTrack s
  | .setSide h => Sys2Proof.Machine.execSetSide h s
  | .resetFdc => Sys2Proof.Machine.execResetFdc s
  | .closeFdc => Sys2Proof.Machine.execCloseFdc s
  | .openTape a => Sys2Proof.Machine.execOpenTape a s
  | .play => Sys2Proof.Machine.execPlay s
  | .record => Sys2Proof.Machine.execRecord s
  | .stop => Sys2Proof.Machine.execStop s
  | .setIsMotorOn b => Sys2Proof.Machine.execSetIsMotorOn b s
  | .runOneSample => Sys2Proof.Machine.execRunOneSample s
  | .getInputSignal => Sys2Proof.Machine.execGetInputSignal s
  | .setOutputSignal v => Sys2Proof.Machine.execSetOutputSignal v s
  | .tapeSeek t => Sys2Proof.Machine.execTapeSeek t s
  | .seekToCuePoint forward maxSkipSeconds => Sys2Proof.Machine.execSeekToCuePoint forward maxSkipSeconds s
  | .addCuePoint => Sys2Proof.Machine.execAddCuePoint s
  | .deleteNearestCuePoint => Sys2Proof.Machine.execDeleteNearestCuePoint s
  | .deleteAllCuePoints => Sys2Proof.Machine.execDeleteAllCuePoints s
  | .getTapeInfo => Sys2Proof.Machine.execGetTapeInfo s
  | .closeTape => Sys2Proof.Machine.execCloseTape s

end Sys2Proof.Machine
end

