-- ==== Sys2Proof/Machine/Step.lean ====
section
/-! DEFINITION. One step: the oldest pending host call, decoded and run to completion (00_scope.md R6; the list of
calls is the model's, notes/assumptions/1.md). -/

namespace Sys2Proof.Machine

/-- One step of the machine. -/
def step (s : State) : Host.Outcome State Fault Refusal :=
  match s.calls with
  | [] => .fault .noCallPending
  | c :: rest =>
    match decode c with
    | .ok i => exec i { s with calls := rest }
    | .error e => .refused (.notAnOperation e)

/-- `s` with the instruction of a word of the opcode table as its next call (notes/assumptions/1.md). -/
def State.withFetchWord (s : State) (nbits w : Nat) : State := { s with calls := tableCall nbits w :: s.calls }

end Sys2Proof.Machine
end

