-- ==== Sys2Proof/Safety.lean ====
section
/-! DEFINITION. What a good state is, in the terms the claims use: the canonical form of every memory, the invariants the
spec names for each sub-block, and the words claims use to speak of stores, of draws and of the tape signal. -/

namespace Sys2Proof.Machine

/-! ### Memories -/

/-- The canonical form, with every address below `n`. -/
def Memory.canonical (m : Memory) (n : Nat) : Prop := m.wf ∧ m.below n

/-- A store in canonical form: nothing listed at or past its end. -/
def Store.canonical : Store → Prop
  | .bytes len cells => cells.canonical len
  | .container _ => True

/-- The host's files in canonical form: ids rising, no empty file listed. -/
def storesCanonical (m : List (Nat × Store)) : Prop :=
  m.Pairwise (fun c d => c.1 < d.1) ∧ ∀ c ∈ m, c.2 ≠ Store.empty ∧ c.2.canonical

/-- The memory of a tape's medium: the resident block of a Native tape, 4096 samples (10_state.md R37). -/
def Medium.canonical : Medium → Prop
  | .native n => n.blockBuf.canonical tapeBlock
  | .legacyTap _ => True
  | .soundFile _ => True

/-- Every memory of the machine is in canonical form within its size (20_memory.md R80, R81). -/
def MemoryOk (s : State) : Prop :=
  storesCanonical s.stores
    ∧ s.tbm.gcr.canonical gcrBufCap ∧ s.tbm.d64.canonical d64BufCap ∧ s.tbm.bad.canonical badTableLen
    ∧ s.fdc.buf.canonical fdcSector
    ∧ ∀ t, s.tape = some t → t.medium.canonical

/-! ### Stores -/

/-- Byte `a` of store `id`. -/
def State.byteAt (s : State) (id a : Nat) : Byte := (s.store id).image.2.read a

/-- The length of store `id`. -/
def State.lengthOf (s : State) (id : Nat) : Nat := (s.store id).length

/-- The oracle draws no failure for the next `n` store accesses, whether the draws are of the script or free
(20_memory.md R84). -/
def State.noFailure : State → Nat → Prop
  | _, 0 => True
  | s, n + 1 => s.ioFails = false ∧ s.ioNext.noFailure n

/-- The oracle draws a failure for the next store access, of the script or free. -/
def State.nextFails (s : State) : Prop := s.ioFails = true

/-! ### Parameters -/

/-- Every row of the size table is a geometry the FDC can hold (10_state.md R30). -/
def GeometryRowsOk (p : Params) : Prop :=
  ∀ r ∈ p.geometryBySize, 1 ≤ r.tracks ∧ r.tracks ≤ 255 ∧ 1 ≤ r.sides ∧ r.sides ≤ 2 ∧ 1 ≤ r.sectors ∧ r.sectors ≤ 255

/-- What 10_state.md R22 and R23 fix of the D64 track tables, whatever their values: 17 to 21 sectors on a track, 683 on
tracks 1 to 35, 17 on each of tracks 36 to 42, and no track longer than the GCR buffer. -/
def TrackTablesOk (p : Params) : Prop :=
  (∀ t, 1 ≤ t → t ≤ 42 → 17 ≤ sectorsPerTrack p t ∧ sectorsPerTrack p t ≤ 21)
    ∧ trackOffset p 36 = 683 * 256 ∧ (∀ t, 36 ≤ t → t ≤ 42 → sectorsPerTrack p t = 17)
    ∧ ∀ t, 1 ≤ t → t ≤ 42 → trackSize p t ≤ gcrBufCap

/-- The tables among the parameters are ones the spec admits. -/
def ParamsOk (p : Params) : Prop := GeometryRowsOk p ∧ TrackTablesOk p

/-! ### Track buffer manager -/

/-- The geometry of TBM: 35 to 42 tracks when an image is attached, construct values when none is (10_state.md R26,
41_track_buffer.md R268). -/
def TbmOk (t : Tbm) : Prop :=
  (t.imageFile.isSome = true → 35 ≤ t.nTracks.toNat ∧ t.nTracks.toNat ≤ 42)
    ∧ (t.imageFile = none → t.nTracks = 0 ∧ t.readOnly = true ∧ t.hasErrorTable = false)

/-! ### Floppy controller -/

/-- A transfer is running (10_state.md R33). -/
def Fdc.busy (f : Fdc) : Bool := decide (f.bufPos < fdcSector)

/-- The FDC invariant (10_state.md R33): DRQ and BUSY stand exactly while a transfer runs, and then status bit 1 is set and
the command register names its kind. -/
def FdcTransferOk (f : Fdc) : Prop :=
  f.bufPos ≤ fdcSector ∧ f.dataRequestFlag = f.busy ∧ f.statusRegister.getLsbD 0 = f.busy
    ∧ (f.busy = true → f.statusRegister.getLsbD 1 = true ∧ (transferKind f.commandRegister).isSome = true)

/-- The geometry of the FDC: legal values when an image is attached, zero when none is (10_state.md R30). -/
def FdcGeometryOk (f : Fdc) : Prop :=
  (f.imageFile.isSome = true →
      1 ≤ f.nTracks.toNat ∧ 1 ≤ f.nSides.toNat ∧ f.nSides.toNat ≤ 2 ∧ 1 ≤ f.nSectorsPerTrack.toNat)
    ∧ (f.imageFile = none → f.nTracks = 0 ∧ f.nSides = 0 ∧ f.nSectorsPerTrack = 0 ∧ f.readOnly = true)

/-- The head within 0..`HEAD_MAX` (10_state.md R30). -/
def FdcHeadOk (p : Params) (f : Fdc) : Prop := f.currentTrack ≤ p.headMax

/-- A write transfer runs only on an image that may be written (43_fdc_commands.md R357). -/
def FdcWriteOk (f : Fdc) : Prop :=
  f.busy = true → transferKind f.commandRegister = some .sectorWrite → f.imageFile.isSome = true ∧ f.readOnly = false

/-! ### Tape -/

/-- The tape is of the LegacyTap format. -/
def Tape.isLegacy (t : Tape) : Bool :=
  match t.medium with
  | .legacyTap _ => true
  | _ => false

/-- The fields of the medium: every sample of a Native block within the file's resolution (10_state.md R37); the cursor
of a LegacyTap tape at the tape position (44_tape.md R440); a channel of the container (44_tape.md R450). -/
def MediumOk (t : Tape) : Prop :=
  match t.medium with
  | .native n =>
    (∀ i, (n.blockBuf.read i).toNat < 2 ^ t.fileBitsPerSample) ∧ (n.blockDirty = true → n.blockIndex.isSome = true)
  | .legacyTap l =>
    t.fileBitsPerSample = 1 ∧ t.sampleRate = c16Rate ∧ l.seekIndex.length ≤ c16IndexCap
      ∧ l.cursor = cursorAt l.version l.pulseData t.tapePosition
  | .soundFile f =>
    f.channel < f.nChannels ∧ (f.frameBlockIndex.isSome = true → f.frameBuf.length = soundBlock)
      ∧ (f.frameBlockDirty = true → f.frameBlockIndex.isSome = true)

/-- The tape invariants (10_state.md R36, R40; 60_exceptions.md R535). A length is a 32-bit number; one of 0xFFFFFFFF comes
only from a file (notes/assumptions/14.md). -/
def TapeOk (t : Tape) : Prop :=
  t.cuePoints.Pairwise (fun a b => a < b) ∧ t.cuePoints.length ≤ cueCap ∧ (∀ c ∈ t.cuePoints, c < cueSentinel)
    ∧ t.tapePosition ≤ t.tapeLength ∧ t.tapeLength < 2 ^ 32
    ∧ (t.isRecordOn = true → t.isPlaybackOn = true ∧ t.mode ≠ .readOnly ∧ t.isLegacy = false)
    ∧ 0 < t.sampleRate ∧ validBits t.fileBitsPerSample = true ∧ validBits t.requestedBitsPerSample = true
    ∧ t.inputState.toNat < 2 ^ t.requestedBitsPerSample ∧ t.outputState.toNat < 2 ^ t.requestedBitsPerSample
    ∧ MediumOk t

/-- No tape open, or one that keeps the invariants. -/
def DeckOk (s : State) : Prop := ∀ t, s.tape = some t → TapeOk t

/-! ### The tape signal of a pulse stream (44_tape.md R442) -/

/-- The ends of the half-waves, `T1, T2, …`, from tick `t0`. -/
def halfWaveEnds (t0 : Nat) : List Nat → List Nat
  | [] => []
  | h :: hs => (t0 + h) :: halfWaveEnds (t0 + h) hs

/-- `level(τ)`: whether the number of half-waves that end at or before tick `τ` is odd. -/
def signalLevel (hs : List Nat) (tau : Nat) : Bool := (halfWaveEnds 0 hs).countP (fun e => decide (e ≤ tau)) % 2 == 1

/-! ### Sectors of a track -/

/-- The six error codes the encoder injects (40_gcr_codec.md R213). -/
def injectable (e : Byte) : Bool :=
  e == codeHeaderNotFound || e == codeSyncNotFound || e == codeDataNotFound || e == codeDataCrc || e == codeHeaderCrc
    || e == codeGcr

/-- The code a sector reads back with (40_gcr_codec.md R240). -/
def readBackCode (e : Byte) : Byte := if injectable e then e else codeOk

/-! ### Classes of instructions -/

/-- The sub-blocks of the core; the codec works on the buffers of TBM (10_state.md R25, 60_exceptions.md R538). -/
inductive SubBlock where
  | tbm
  | fdc
  | tape
  deriving DecidableEq, Repr

/-- The sub-block an instruction is an operation of. -/
def subBlock : Instr → SubBlock
  | .restore _ _ _ => .fdc
  | .seek _ _ _ => .fdc
  | .step _ _ _ _ => .fdc
  | .stepIn _ _ _ _ => .fdc
  | .stepOut _ _ _ _ => .fdc
  | .rdsec _ _ _ _ _ => .fdc
  | .wrsec _ _ _ _ _ => .fdc
  | .rdaddr _ _ _ _ => .fdc
  | .forceint _ _ _ _ => .fdc
  | .rdtrk _ _ _ _ => .fdc
  | .wrtrk _ _ _ _ => .fdc
  | .st => .fdc
  | .cmd _ => .fdc
  | .rtr => .fdc
  | .wtr _ => .fdc
  | .rsr => .fdc
  | .wsr _ => .fdc
  | .rdr => .fdc
  | .wdr _ => .fdc
  | .gcrEncodeFourBytes _ _ _ _ => .tbm
  | .gcrDecodeFourBytes _ _ _ _ _ => .tbm
  | .gcrEncodeTrack _ _ _ => .tbm
  | .gcrDecodeTrack _ _ _ => .tbm
  | .setImageFile _ _ => .tbm
  | .readTrack _ => .tbm
  | .flushTrack _ => .tbm
  | .setCurrentTrack _ => .tbm
  | .gcrReadByte _ => .tbm
  | .gcrWriteByte _ _ => .tbm
  | .getTrackInfo => .tbm
  | .setSectorErrorCode _ _ => .tbm
  | .getSectorErrorCode _ => .tbm
  | .closeD64 => .tbm
  | .writeCommandRegister _ => .fdc
  | .readStatusRegister => .fdc
  | .writeTrackRegister _ => .fdc
  | .readTrackRegister => .fdc
  | .writeSectorRegister _ => .fdc
  | .readSectorRegister => .fdc
  | .writeDataRegister _ => .fdc
  | .readDataRegister => .fdc
  | .peekRegister _ => .fdc
  | .getHeadPosition => .fdc
  | .getInterruptRequest => .fdc
  | .getDataRequest => .fdc
  | .setDiskImageFile _ _ _ _ _ => .fdc
  | .setSide _ => .fdc
  | .resetFdc => .fdc
  | .closeFdc => .fdc
  | .openTape _ => .tape
  | .play => .tape
  | .record => .tape
  | .stop => .tape
  | .setIsMotorOn _ => .tape
  | .runOneSample => .tape
  | .getInputSignal => .tape
  | .setOutputSignal _ => .tape
  | .tapeSeek _ => .tape
  | .seekToCuePoint _ _ => .tape
  | .addCuePoint => .tape
  | .deleteNearestCuePoint => .tape
  | .deleteAllCuePoints => .tape
  | .getTapeInfo => .tape
  | .closeTape => .tape

/-- The operations that may end with an outcome `HostIoError` (60_exceptions.md R510); the others never do (R513). -/
def mayRaise : Instr → Bool
  | .restore _ _ _ => false
  | .seek _ _ _ => false
  | .step _ _ _ _ => false
  | .stepIn _ _ _ _ => false
  | .stepOut _ _ _ _ => false
  | .rdsec _ _ _ _ _ => false
  | .wrsec _ _ _ _ _ => false
  | .rdaddr _ _ _ _ => false
  | .forceint _ _ _ _ => false
  | .rdtrk _ _ _ _ => false
  | .wrtrk _ _ _ _ => false
  | .st => false
  | .cmd _ => false
  | .rtr => false
  | .wtr _ => false
  | .rsr => false
  | .wsr _ => false
  | .rdr => false
  | .wdr _ => false
  | .gcrEncodeFourBytes _ _ _ _ => false
  | .gcrDecodeFourBytes _ _ _ _ _ => false
  | .gcrEncodeTrack _ _ _ => false
  | .gcrDecodeTrack _ _ _ => false
  | .setImageFile _ _ => true
  | .readTrack _ => false
  | .flushTrack _ => true
  | .setCurrentTrack _ => false
  | .gcrReadByte _ => false
  | .gcrWriteByte _ _ => false
  | .getTrackInfo => false
  | .setSectorErrorCode _ _ => false
  | .getSectorErrorCode _ => false
  | .closeD64 => false
  | .writeCommandRegister _ => false
  | .readStatusRegister => false
  | .writeTrackRegister _ => false
  | .readTrackRegister => false
  | .writeSectorRegister _ => false
  | .readSectorRegister => false
  | .writeDataRegister _ => false
  | .readDataRegister => false
  | .peekRegister _ => false
  | .getHeadPosition => false
  | .getInterruptRequest => false
  | .getDataRequest => false
  | .setDiskImageFile _ _ _ _ _ => true
  | .setSide _ => false
  | .resetFdc => false
  | .closeFdc => false
  | .openTape _ => true
  | .play => false
  | .record => false
  | .stop => true
  | .setIsMotorOn _ => true
  | .runOneSample => true
  | .getInputSignal => false
  | .setOutputSignal _ => false
  | .tapeSeek _ => true
  | .seekToCuePoint _ _ => true
  | .addCuePoint => false
  | .deleteNearestCuePoint => false
  | .deleteAllCuePoints => false
  | .getTapeInfo => false
  | .closeTape => false

/-- The instructions at which buffered data may reach a store, or which create one (20_memory.md R100). -/
def mayWriteStore : Instr → Bool
  | .restore _ _ _ => true
  | .seek _ _ _ => true
  | .step _ _ _ _ => true
  | .stepIn _ _ _ _ => true
  | .stepOut _ _ _ _ => true
  | .rdsec _ _ _ _ _ => true
  | .wrsec _ _ _ _ _ => true
  | .rdaddr _ _ _ _ => true
  | .forceint _ _ _ _ => true
  | .rdtrk _ _ _ _ => true
  | .wrtrk _ _ _ _ => true
  | .st => false
  | .cmd _ => true
  | .rtr => false
  | .wtr _ => false
  | .rsr => false
  | .wsr _ => false
  | .rdr => false
  | .wdr _ => true
  | .gcrEncodeFourBytes _ _ _ _ => false
  | .gcrDecodeFourBytes _ _ _ _ _ => false
  | .gcrEncodeTrack _ _ _ => false
  | .gcrDecodeTrack _ _ _ => false
  | .setImageFile _ _ => true
  | .readTrack _ => false
  | .flushTrack _ => true
  | .setCurrentTrack _ => true
  | .gcrReadByte _ => false
  | .gcrWriteByte _ _ => false
  | .getTrackInfo => false
  | .setSectorErrorCode _ _ => false
  | .getSectorErrorCode _ => false
  | .closeD64 => true
  | .writeCommandRegister _ => true
  | .readStatusRegister => false
  | .writeTrackRegister _ => false
  | .readTrackRegister => false
  | .writeSectorRegister _ => false
  | .readSectorRegister => false
  | .writeDataRegister _ => true
  | .readDataRegister => false
  | .peekRegister _ => false
  | .getHeadPosition => false
  | .getInterruptRequest => false
  | .getDataRequest => false
  | .setDiskImageFile _ _ _ _ _ => true
  | .setSide _ => false
  | .resetFdc => false
  | .closeFdc => true
  | .openTape _ => true
  | .play => false
  | .record => false
  | .stop => true
  | .setIsMotorOn _ => true
  | .runOneSample => true
  | .getInputSignal => false
  | .setOutputSignal _ => false
  | .tapeSeek _ => true
  | .seekToCuePoint _ _ => true
  | .addCuePoint => false
  | .deleteNearestCuePoint => false
  | .deleteAllCuePoints => false
  | .getTapeInfo => false
  | .closeTape => true

/-- The writes of a command byte (43_fdc_commands.md R340). -/
def isCommandWrite : Instr → Bool
  | .restore _ _ _ => true
  | .seek _ _ _ => true
  | .step _ _ _ _ => true
  | .stepIn _ _ _ _ => true
  | .stepOut _ _ _ _ => true
  | .rdsec _ _ _ _ _ => true
  | .wrsec _ _ _ _ _ => true
  | .rdaddr _ _ _ _ => true
  | .forceint _ _ _ _ => true
  | .rdtrk _ _ _ _ => true
  | .wrtrk _ _ _ _ => true
  | .st => false
  | .cmd _ => true
  | .rtr => false
  | .wtr _ => false
  | .rsr => false
  | .wsr _ => false
  | .rdr => false
  | .wdr _ => false
  | .gcrEncodeFourBytes _ _ _ _ => false
  | .gcrDecodeFourBytes _ _ _ _ _ => false
  | .gcrEncodeTrack _ _ _ => false
  | .gcrDecodeTrack _ _ _ => false
  | .setImageFile _ _ => false
  | .readTrack _ => false
  | .flushTrack _ => false
  | .setCurrentTrack _ => false
  | .gcrReadByte _ => false
  | .gcrWriteByte _ _ => false
  | .getTrackInfo => false
  | .setSectorErrorCode _ _ => false
  | .getSectorErrorCode _ => false
  | .closeD64 => false
  | .writeCommandRegister _ => true
  | .readStatusRegister => false
  | .writeTrackRegister _ => false
  | .readTrackRegister => false
  | .writeSectorRegister _ => false
  | .readSectorRegister => false
  | .writeDataRegister _ => false
  | .readDataRegister => false
  | .peekRegister _ => false
  | .getHeadPosition => false
  | .getInterruptRequest => false
  | .getDataRequest => false
  | .setDiskImageFile _ _ _ _ _ => false
  | .setSide _ => false
  | .resetFdc => false
  | .closeFdc => false
  | .openTape _ => false
  | .play => false
  | .record => false
  | .stop => false
  | .setIsMotorOn _ => false
  | .runOneSample => false
  | .getInputSignal => false
  | .setOutputSignal _ => false
  | .tapeSeek _ => false
  | .seekToCuePoint _ _ => false
  | .addCuePoint => false
  | .deleteNearestCuePoint => false
  | .deleteAllCuePoints => false
  | .getTapeInfo => false
  | .closeTape => false

/-! ### The status of a type I command -/

/-- The bits of a type I status byte (43_fdc_commands.md R344, R345). -/
def TypeIStatus (p : Params) (f : Fdc) (v index : Bool) (st : Byte) : Prop :=
  st.getLsbD 7 = !p.isWD1773 ∧ st.getLsbD 6 = (f.imageFile.isNone || f.readOnly) ∧ st.getLsbD 5 = true
    ∧ (st.getLsbD 4 = true ↔
        v = true ∧ (f.imageFile = none ∨ f.nTracks.toNat ≤ f.currentTrack.toNat ∨ f.trackRegister ≠ f.currentTrack))
    ∧ st.getLsbD 3 = false ∧ (st.getLsbD 2 = true ↔ f.currentTrack = 0) ∧ st.getLsbD 1 = index
    ∧ st.getLsbD 0 = false

/-! ### The sector a type II command names -/

/-- The side a type II command works on (43_fdc_commands.md R350). -/
def selectedSide (p : Params) (f : Fdc) (hs pc : Bool) : BitVec 1 :=
  if p.isWD1773 && pc then BitVec.ofBool hs else f.currentSide

/-- The position check of a type II command on side `side` for sector `sector` (43_fdc_commands.md R351). -/
def PositionOk (f : Fdc) (side : BitVec 1) (sector : Byte) : Prop :=
  f.imageFile ≠ none ∧ f.currentTrack.toNat < f.nTracks.toNat ∧ side.toNat < f.nSides.toNat ∧ 1 ≤ sector.toNat
    ∧ sector.toNat ≤ f.nSectorsPerTrack.toNat ∧ f.trackRegister = f.currentTrack

/-- The store offset of sector `sector` on side `side` of the head's track (42_fdc_ports.md R304). -/
def secOff (f : Fdc) (side : BitVec 1) (sector : Byte) : Nat :=
  ((f.currentTrack.toNat * f.nSides.toNat + side.toNat) * f.nSectorsPerTrack.toNat + (sector.toNat - 1)) * 512

/-- The FDC at the end of a command with status `st`: INTRQ set, the command register cleared. -/
def Fdc.ended (f : Fdc) (st : Byte) : Fdc :=
  { f with statusRegister := st, interruptRequestFlag := true, commandRegister := 0 }

/-- The FDC with a command byte taken (43_fdc_commands.md R340). -/
def Fdc.taken (f : Fdc) (c : Byte) : Fdc :=
  { f with interruptRequestFlag := false, forceIntPending := false, busyHackPhase := true, commandRegister := c }

/-- The FDC with no transfer running: DRQ, BUSY and status bit 1 cleared. -/
def Fdc.stopped (f : Fdc) : Fdc :=
  { f with bufPos := 512, dataRequestFlag := false, statusRegister := f.statusRegister &&& 0xFC }

/-- The FDC at the start of a sector transfer: cursor at 0, DRQ, BUSY and status bit 1 (43_fdc_commands.md R352, R358). -/
def Fdc.armed (f : Fdc) (p : Params) : Fdc :=
  { f with bufPos := 0, dataRequestFlag := true, statusRegister := 0x03 ||| bit7Idle p }

end Sys2Proof.Machine
end

