-- ==== Sys2Proof/Certificates/Slice0/Obligations.lean ====
section
/-! DEFINITION. The statements for the provers: what the instructions do, what the machine keeps, what the encoding says.
Each docstring names the rules it formalises; OBLIGATIONS.json lists them. -/

open Sys2Proof Sys2Proof.Machine

/-! ### Encoding and steps -/

/-- Decoding the call that encodes a well-formed instruction gives it back, with every operand at every value its
encoding admits (the argument bytes are the model's choice, notes/assumptions/2.md). -/
def Obligations.DecodeEncode : Prop := ∀ i : Instr, i.wellFormed = true → decode (encode i) = .ok i

/-- Words written out from 30_encoding.md R141 to R144, R150 and R170 decode to what they stand for, and every byte is exactly
one command, which encodes to it (R145). R170 gives the operation ids 0x02, 0x12 and 0x34; the bytes after them (the group's
bytes, FF FF FF FF for the track number -1, 01 for true) are the model's choice, notes/assumptions/2.md. -/
def Obligations.DecodeSpecWords : Prop :=
  (decode ⟨.fdcCommand, [0b00010100]⟩ = .ok (.seek false true 0)
    ∧ decode ⟨.fdcCommand, [0b10010000]⟩ = .ok (.rdsec true false false false false)
    ∧ decode ⟨.fdcCommand, [0b11011000]⟩ = .ok (.forceint true false false false)
    ∧ decode ⟨.fdcPort, [0b001, 0x80]⟩ = .ok (.cmd 0x80)
    ∧ decode ⟨.fdcPort, [0b110]⟩ = .ok .rdr
    ∧ decode ⟨.hostOp, [0x02, 0x52, 0x94, 0xA5, 0x29, 0x4A]⟩ = .ok (.gcrDecodeFourBytes 0x52 0x94 0xA5 0x29 0x4A)
    ∧ decode ⟨.hostOp, [0x12, 0xFF, 0xFF, 0xFF, 0xFF]⟩ = .ok (.flushTrack (-1))
    ∧ decode ⟨.hostOp, [0x34, 0x01]⟩ = .ok (.setIsMotorOn true))
    ∧ ∀ c : Byte, ∃ i : Instr, decode ⟨.fdcCommand, [c]⟩ = .ok i ∧ encode i = ⟨.fdcCommand, [c]⟩

/-- An operation id that 30_encoding.md R170 does not list is refused by the decoder, and the step with it. -/
def Obligations.UnknownOperationRefused : Prop :=
  ∀ (id : Byte) (args : List Byte) (rest : List HostCall) (s : State),
    (id.toNat = 0 ∨ 5 ≤ id.toNat ∧ id.toNat ≤ 0x0F ∨ 0x1A ≤ id.toNat ∧ id.toNat ≤ 0x1F ∨ 0x3F ≤ id.toNat) →
    s.calls = ⟨.hostOp, id :: args⟩ :: rest → step s = .refused (.notAnOperation (.unknownOperation id))

/-- A step runs the decoded instruction of the oldest pending call, with that call taken from the list; a call that does
not decode is refused, and with no call pending the step is the fault of notes/assumptions/25.md. -/
def Obligations.StepRunsDecoded : Prop :=
  ∀ s : State,
    (∀ c rest i, s.calls = c :: rest → decode c = .ok i → step s = exec i { s with calls := rest })
      ∧ (∀ c rest e, s.calls = c :: rest → decode c = .error e → step s = .refused (.notAnOperation e))
      ∧ (s.calls = [] → step s = .fault .noCallPending)

/-! ### Whole-machine rules -/

/-- Every instruction completes in every state: no outcome and no fault stops the core (60_exceptions.md R512); and none
changes the parameters (10_state.md R29) or the pending calls. -/
def Obligations.EveryInstructionCompletes : Prop :=
  ∀ (i : Instr) (s : State), ∃ t, exec i s = .next t ∧ t.params = s.params ∧ t.calls = s.calls

/-- An operation of one sub-block changes no state of another (60_exceptions.md R538, 20_memory.md R104). -/
def Obligations.SubBlocksShareNoState : Prop :=
  ∀ (i : Instr) (s t : State), exec i s = .next t →
    (subBlock i ≠ .tbm → t.tbm = s.tbm) ∧ (subBlock i ≠ .fdc → t.fdc = s.fdc) ∧ (subBlock i ≠ .tape → t.tape = s.tape)

/-- The operations of 60_exceptions.md R513 never end with an outcome. -/
def Obligations.NeverAnOutcome : Prop :=
  ∀ (i : Instr) (s t : State) (k : IoError), mayRaise i = false → exec i s = .next t → t.result ≠ .hostIoError k

/-- A store changes only at the points of 20_memory.md R100, and a command write changes one only when it ends a write
transfer that holds at least one byte. -/
def Obligations.StoresOnlyByWriters : Prop :=
  ∀ (i : Instr) (s t : State), exec i s = .next t →
    (mayWriteStore i = false ∨ isCommandWrite i = true ∧ partialWrite s.fdc = false) → t.stores = s.stores

/-! ### GCR codec -/

/-- The four-byte codec, bit by bit as its pseudocode: 40_gcr_codec.md R200 and R201. Nothing else changes. -/
def Obligations.GcrFourBytes : Prop :=
  (∀ (b0 b1 b2 b3 : Byte) (s : State),
    let sym : BitVec 4 → BitVec 40 := fun n => (gcrEncodeTable.getD n.toNat 0).setWidth 40
    let w : BitVec 40 :=
      [b0, b1, b2, b3].foldl
        (fun w b => (w <<< 10) ||| (sym (b.extractLsb' 4 4) <<< 5) ||| sym (b.extractLsb' 0 4)) 0
    exec (.gcrEncodeFourBytes b0 b1 b2 b3) s
      = .next { s with result := .bytes ((List.range 5).map fun k => w.extractLsb' (32 - 8 * k) 8) })
    ∧ ∀ (g0 g1 g2 g3 g4 : Byte) (s : State),
      let w : BitVec 40 := g0 ++ g1 ++ g2 ++ g3 ++ g4
      let dec : Nat → Byte := fun j => gcrDecodeTable.getD (w.extractLsb' (35 - 5 * j) 5).toNat 0xFF
      let nib : Nat → Byte := fun j => if dec j ≥ 0x80 then 0 else dec j
      exec (.gcrDecodeFourBytes g0 g1 g2 g3 g4) s
        = .next { s with
            result := .decoded ((List.range 4).map fun i => (nib (2 * i) <<< 4) ||| (nib (2 * i + 1) &&& 0x0F))
              ((List.range 8).all fun j => decide (dec j < 0x80)) }

/-- Four bytes encoded and decoded come back, and valid, through the two instructions (40_gcr_codec.md R202). -/
def Obligations.GcrRoundTrip : Prop :=
  ∀ (b0 b1 b2 b3 : Byte) (s : State), ∃ g0 g1 g2 g3 g4 : Byte,
    exec (.gcrEncodeFourBytes b0 b1 b2 b3) s = .next { s with result := .bytes [g0, g1, g2, g3, g4] }
      ∧ exec (.gcrDecodeFourBytes g0 g1 g2 g3 g4) s = .next { s with result := .decoded [b0, b1, b2, b3] true }

/-- Encoded data never holds two 0xFF bytes in a row, so that a sync mark stands out (30_encoding.md R122). -/
def Obligations.NoSyncInData : Prop :=
  ∀ (bs : List Byte) (i : Nat), i + 1 < (encodeGroups bs).length →
    ¬ ((encodeGroups bs).getD i 0 = 0xFF ∧ (encodeGroups bs).getD (i + 1) 0 = 0xFF)

/-- `gcrEncodeTrack` in its domain writes the laid-out sectors, then 0x55, into the first `nBytes` bytes of the GCR buffer
and changes nothing else. The layout has the length of 40_gcr_codec.md R214, and its `k`-th part is the layout of sector `k`
with code `k` of the error table and the 256 bytes of the D64 buffer from `256·k` on (R210, 30_encoding.md R129). -/
def Obligations.GcrEncodeTrackLayout : Prop :=
  ∀ (trackNum : Byte) (nSectors nBytes : Nat) (s : State), nSectors ≤ 21 → nBytes ≤ 8192 →
    let size := 345 + s.params.headerGap + tailGap s.params nSectors
    let layout := trackLayout s.params s.tbm trackNum nSectors
    layout.length = nSectors * size
      ∧ (∀ k j, k < nSectors → j < size →
          layout.getD (k * size + j) 0
            = (sectorLayout s.params s.tbm.idCharacter1 s.tbm.idCharacter2 trackNum nSectors (BitVec.ofNat 8 k)
                (s.tbm.bad.read k) ((List.range 256).map fun a => s.tbm.d64.read (256 * k + a))).getD j 0)
      ∧ ∃ g : Memory,
          exec (.gcrEncodeTrack trackNum nSectors nBytes) s
            = .next { s with tbm := { s.tbm with gcr := g }, result := .none }
          ∧ ∀ i, g.read i = if i < nBytes then layout.getD i 0x55 else s.tbm.gcr.read i

/-- The layout of one sector for each error code: header, data block and the one change a code makes
(40_gcr_codec.md R211 to R213). -/
def Obligations.SectorLayouts : Prop :=
  ∀ (p : Params) (id1 id2 t s e : Byte) (nSectors : Nat) (data : List Byte), data.length = 256 →
    let h : List Byte := [0x08, s ^^^ t ^^^ id2 ^^^ id1, s, t, id2, id1, 0x0F, 0x0F]
    let h' := if e = 0x02 then h.set 0 0x00 else if e = 0x09 then h.set 1 (h.getD 1 0 ^^^ 0xFF) else h
    let x : Byte := data.foldl (fun a b => a ^^^ b) 0
    let b : List Byte := [0x07] ++ data ++ [x, 0x00, 0x00]
    let b' := if e = 0x04 then b.set 0 0x00 else if e = 0x05 then b.set 257 (x ^^^ 0xFF) else b
    let c := encodeGroups b'
    let c' := if e = 0x10 then c.set 324 0x00 else c
    c.length = 325 ∧ sectorLayout p id1 id2 t nSectors s e data
      = List.replicate 5 (if e = 0x03 then 0x55 else 0xFF) ++ encodeGroups h' ++ List.replicate p.headerGap 0x55
        ++ List.replicate 5 0xFF ++ c' ++ List.replicate (tailGap p nSectors) 0x55

/-- A track operation outside its operand domain changes no state and returns 0 or nothing (40_gcr_codec.md R215). -/
def Obligations.GcrTrackRefused : Prop :=
  ∀ (trackNum : Byte) (nSectors nBytes : Nat) (s : State), (21 < nSectors ∨ 8192 < nBytes) →
    exec (.gcrEncodeTrack trackNum nSectors nBytes) s = .next { s with result := .none }
      ∧ exec (.gcrDecodeTrack trackNum nSectors nBytes) s = .next { s with result := .count 0 }

/-- `gcrDecodeTrack` in its domain: one legal code for each sector, the count of the sectors with code 0x01, and only the
data of those sectors changed (40_gcr_codec.md R230, R237). -/
def Obligations.GcrDecodeTrackResult : Prop :=
  ∀ (trackNum : Byte) (nSectors nBytes : Nat) (s : State), nSectors ≤ 21 → nBytes ≤ 8192 →
    ∃ (codes : List Byte) (d b : Memory),
      codes.length = nSectors
        ∧ exec (.gcrDecodeTrack trackNum nSectors nBytes) s
            = .next { s with
                tbm := { s.tbm with d64 := d, bad := b }, result := .count (codes.countP fun c => c == 0x01) }
        ∧ (∀ c ∈ codes, c = 0x01 ∨ injectable c = true)
        ∧ (∀ k, b.read k = if k < nSectors then codes.getD k 0 else s.tbm.bad.read k)
        ∧ ∀ a, (256 * nSectors ≤ a ∨ codes.getD (a / 256) 0 ≠ 0x01) → d.read a = s.tbm.d64.read a

/-- Track round trip and fault determinism (40_gcr_codec.md R240, which the spec marks as its own inference from R210 to
R237): a track encoded with enough bytes, whatever the gaps, and decoded over any D64 buffer `d`, gives each sector the code it
was encoded with (0x01 for a code that injects nothing) and the count of the sectors without an injected fault. Each sector that
reads back 0x01 then holds the 256 bytes that were encoded, and every other byte of the buffer is as it was in `d` (R230, R236);
encoding leaves the D64 buffer alone, so that with `d` that buffer no byte of it changes. -/
def Obligations.GcrTrackRoundTrip : Prop :=
  ∀ (trackNum : Byte) (nSectors nBytes : Nat) (s : State), nSectors ≤ 21 → nBytes ≤ 8192 →
    nSectors * (345 + s.params.headerGap + tailGap s.params nSectors) ≤ nBytes →
    ∃ e, exec (.gcrEncodeTrack trackNum nSectors nBytes) s = .next e ∧ e.tbm.d64 = s.tbm.d64
      ∧ ∀ d : Memory, ∃ u, exec (.gcrDecodeTrack trackNum nSectors nBytes) { e with tbm := { e.tbm with d64 := d } } = .next u
        ∧ u.result = .count ((List.range nSectors).countP fun k => !injectable (s.tbm.bad.read k))
        ∧ (∀ k, k < nSectors → u.tbm.bad.read k = readBackCode (s.tbm.bad.read k))
        ∧ ∀ a, u.tbm.d64.read a =
            if a < 256 * nSectors ∧ readBackCode (s.tbm.bad.read (a / 256)) = 0x01 then s.tbm.d64.read a else d.read a

/-! ### Track buffer manager -/

/-- The GCR buffer ports, the error-code accesses and the track getter: 41_track_buffer.md R262 to R266. -/
def Obligations.TbmPorts : Prop :=
  ∀ (s : State) (i : Nat) (v : Byte),
    let n := trackSize s.params s.tbm.currentTrack.toNat
    (exec (.gcrReadByte i) s = .next { s with result := .byte (if n = 0 then 0x00 else s.tbm.gcr.read (i % n)) })
      ∧ (n = 0 → exec (.gcrWriteByte i v) s = .next { s with result := .none })
      ∧ (n ≠ 0 → ∃ g : Memory,
          exec (.gcrWriteByte i v) s
            = .next { s with tbm := { s.tbm with gcr := g, trackDirtyFlag := true }, result := .none }
          ∧ ∀ a, g.read a = if a = i % n then v else s.tbm.gcr.read a)
      ∧ (exec .getTrackInfo s
          = .next { s with
              result := .trackInfo s.tbm.currentTrack n (sectorsPerTrack s.params s.tbm.currentTrack.toNat) s.tbm.readOnly })
      ∧ (i < 24 → ∃ b : Memory,
          exec (.setSectorErrorCode i v) s = .next { s with tbm := { s.tbm with bad := b }, result := .none }
          ∧ ∀ a, b.read a = if a = i then v else s.tbm.bad.read a)
      ∧ (24 ≤ i → exec (.setSectorErrorCode i v) s = .next { s with result := .none })
      ∧ (i < 24 → exec (.getSectorErrorCode i) s = .next { s with result := .byte (s.tbm.bad.read i) })
      ∧ (24 ≤ i → exec (.getSectorErrorCode i) s = .next { s with result := .byte 0x00 })

/-- `readTrack` of a track of the image that its store holds and the oracle lets it read: the data, the codes and the GCR
image of that track, the result true. Of a track that is not in the image, or whose read of the sectors or of the codes fails:
both buffers zero, every code 0x01, the result false. That track becomes current, not dirty, and no store and no other sub-block changes
(41_track_buffer.md R250, R251). -/
def Obligations.ReadTrack : Prop :=
  (∀ (s : State) (id t : Nat) (n : Int),
     let p := s.params
     let spt := sectorsPerTrack p t
     ParamsOk p →
     (n = t ∨ n = -1 ∧ s.tbm.currentTrack.toNat = t) → s.tbm.imageFile = some id → 1 ≤ t → t ≤ s.tbm.nTracks.toNat →
     trackOffset p t + 256 * spt ≤ s.lengthOf id →
     (s.tbm.hasErrorTable = true → errBase p s.tbm + trackOffset p t / 256 + spt ≤ s.lengthOf id) →
     s.noFailure (if s.tbm.hasErrorTable then 2 else 1) →
     ∃ u, exec (.readTrack n) s = .next u
       ∧ u.result = .bool true
       ∧ u.tbm = { s.tbm with
           currentTrack := BitVec.ofNat 8 t, trackDirtyFlag := false, gcr := u.tbm.gcr, d64 := u.tbm.d64, bad := u.tbm.bad }
       ∧ (∀ a, u.tbm.d64.read a = if a < 256 * spt then s.byteAt id (trackOffset p t + a) else 0)
       ∧ (∀ k, u.tbm.bad.read k =
           if s.tbm.hasErrorTable = true ∧ k < spt
           then s.byteAt id (errBase p s.tbm + trackOffset p t / 256 + k) else if k < 24 then 0x01 else 0)
       ∧ (∀ i, u.tbm.gcr.read i =
           if i < trackSize p t then (trackLayout p u.tbm (BitVec.ofNat 8 t) spt).getD i 0x55 else 0)
       ∧ u.fdc = s.fdc ∧ u.tape = s.tape ∧ u.stores = s.stores)
  ∧ (∀ (s : State) (n : Int),
     let t : Int := if n = -1 then (s.tbm.currentTrack.toNat : Int) else n
     let bare : Tbm := { s.tbm with
       currentTrack := BitVec.ofInt 8 t, gcr := [], d64 := [], bad := badAllOk, trackDirtyFlag := false }
     ((s.tbm.imageFile = none ∨ t < 1 ∨ (s.tbm.nTracks.toNat : Int) < t) →
         exec (.readTrack n) s = .next { s with tbm := bare, result := .bool false })
       ∧ ∀ id, s.tbm.imageFile = some id → 1 ≤ t → t ≤ (s.tbm.nTracks.toNat : Int) →
           (s.lengthOf id < trackOffset s.params t.toNat + 256 * sectorsPerTrack s.params t.toNat ∨ s.nextFails
             ∨ s.tbm.hasErrorTable = true
               ∧ (s.lengthOf id < errBase s.params s.tbm + trackOffset s.params t.toNat / 256
                    + sectorsPerTrack s.params t.toNat
                 ∨ s.ioNext.nextFails)) →
           ∃ u, exec (.readTrack n) s = .next u ∧ u.result = .bool false ∧ u.tbm = bare ∧ u.fdc = s.fdc
             ∧ u.tape = s.tape ∧ u.stores = s.stores)

/-- `flushTrack` that writes nothing: refused for another track, nothing to do when not dirty, and only the dirty flag
cleared when the image is write-protected, absent, or without the track (41_track_buffer.md R252, R253). -/
def Obligations.FlushTrackKeeps : Prop :=
  ∀ (s : State) (n : Int),
    (n ≠ -1 → n ≠ s.tbm.currentTrack.toNat → exec (.flushTrack n) s = .next { s with result := .bool true })
      ∧ (s.tbm.trackDirtyFlag = false → exec (.flushTrack n) s = .next { s with result := .bool true })
      ∧ ((n = -1 ∨ n = s.tbm.currentTrack.toNat) → s.tbm.trackDirtyFlag = true →
          (s.tbm.readOnly = true ∨ s.tbm.imageFile = none ∨ s.tbm.currentTrack.toNat = 0
            ∨ s.tbm.nTracks.toNat < s.tbm.currentTrack.toNat) →
          exec (.flushTrack n) s
            = .next { s with tbm := { s.tbm with trackDirtyFlag := false }, result := .bool true })

/-- `flushTrack` of a dirty track of a writable image: the decoded sectors and, when there is an error table, the codes are
written at their places and nowhere else; a decode that recovers no sector writes nothing; a failed write is the outcome
`HostIoError(write)`, of the sectors with no store changed, of the codes with the sectors written. The dirty flag is clear in every case (41_track_buffer.md R252, R254). -/
def Obligations.FlushTrackWrites : Prop :=
  ∀ (s : State) (id : Nat) (n : Int),
    let t := s.tbm.currentTrack.toNat
    let spt := sectorsPerTrack s.params t
    let p := decodeTrack s.tbm.currentTrack spt (trackSize s.params t) s.tbm
    let off := trackOffset s.params t
    let base := errBase s.params s.tbm + trackOffset s.params t / 256
    (n = -1 ∨ n = t) → s.tbm.trackDirtyFlag = true → s.tbm.readOnly = false → s.tbm.imageFile = some id → 1 ≤ t →
    t ≤ s.tbm.nTracks.toNat →
    (p.1 = 0 →
        exec (.flushTrack n) s = .next { s with tbm := { p.2 with trackDirtyFlag := false }, result := .bool true })
      ∧ (p.1 ≠ 0 → s.noFailure (if s.tbm.hasErrorTable then 2 else 1) →
          ∃ u, exec (.flushTrack n) s = .next u ∧ u.result = .bool true
            ∧ u.tbm = { p.2 with trackDirtyFlag := false } ∧ u.fdc = s.fdc ∧ u.tape = s.tape
            ∧ (∀ x a, u.byteAt x a =
                if x = id ∧ off ≤ a ∧ a < off + 256 * spt then p.2.d64.read (a - off)
                else if x = id ∧ s.tbm.hasErrorTable = true ∧ base ≤ a ∧ a < base + spt
                then p.2.bad.read (a - base) else s.byteAt x a)
            ∧ ∀ x, x ≠ id → u.store x = s.store x)
      ∧ (p.1 ≠ 0 → s.nextFails →
          ∃ u, exec (.flushTrack n) s = .next u ∧ u.result = .hostIoError .write
            ∧ u.tbm = { p.2 with trackDirtyFlag := false } ∧ u.fdc = s.fdc ∧ u.tape = s.tape ∧ u.stores = s.stores)
      ∧ (p.1 ≠ 0 → s.tbm.hasErrorTable = true → s.noFailure 1 → s.ioNext.nextFails →
          ∃ u, exec (.flushTrack n) s = .next u ∧ u.result = .hostIoError .write
            ∧ u.tbm = { p.2 with trackDirtyFlag := false } ∧ u.fdc = s.fdc ∧ u.tape = s.tape
            ∧ (∀ x a, u.byteAt x a =
                if x = id ∧ off ≤ a ∧ a < off + 256 * spt then p.2.d64.read (a - off) else s.byteAt x a)
            ∧ ∀ x, x ≠ id → u.store x = s.store x)

/-- `setCurrentTrack`: the target is clamped to 1..42; the current track does nothing; else the resident track is flushed,
the target becomes current and is read, and the result says whether both succeeded (41_track_buffer.md R255). -/
def Obligations.SetCurrentTrack : Prop :=
  ∀ (s : State) (n : Int),
    let t : Int := min (max n 1) 42
    (t = s.tbm.currentTrack.toNat → exec (.setCurrentTrack n) s = .next { s with result := .bool true })
      ∧ (t ≠ s.tbm.currentTrack.toNat →
          ∃ f r, exec (.flushTrack (-1)) s = .next f
            ∧ exec (.readTrack (-1)) { f with tbm := { f.tbm with currentTrack := BitVec.ofInt 8 t } } = .next r
            ∧ exec (.setCurrentTrack n) s
                = .next { r with result := .bool (f.result == .bool true && r.result == .bool true) }
            ∧ (r.tbm.currentTrack.toNat : Int) = t ∧ r.tbm.trackDirtyFlag = false)

/-- Every `setImageFile` rotates the disk ID, whatever its end, and two calls in a row never leave the same pair of
characters; the pair names the disk ID, which starts at 0 (41_track_buffer.md R258). -/
def Obligations.DiskIdRotates : Prop :=
  (∀ (file : Option Nat) (ro : Bool) (s t : State), exec (.setImageFile file ro) s = .next t →
    t.tbm.diskID = s.tbm.diskID + 1
      ∧ t.tbm.idCharacter1 = 0x41 + (t.tbm.diskID >>> 4) ∧ t.tbm.idCharacter2 = 0x41 + (t.tbm.diskID &&& 0x0F)
      ∧ ∀ (file' : Option Nat) (ro' : Bool) (u : State), exec (.setImageFile file' ro') t = .next u →
          (u.tbm.idCharacter1, u.tbm.idCharacter2) ≠ (t.tbm.idCharacter1, t.tbm.idCharacter2))
  ∧ (∀ d e : Byte, 0x41 + (d >>> 4) = 0x41 + (e >>> 4) → 0x41 + (d &&& 0x0F) = 0x41 + (e &&& 0x0F) → d = e)
  ∧ State.reset.tbm.diskID = 0 ∧ State.reset.tbm.idCharacter1 = 0x41 ∧ State.reset.tbm.idCharacter2 = 0x41

/-- `setImageFile` (41_track_buffer.md R256, R257, R259, R260; 60_exceptions.md R510, R511). In every state: an attached image is
flushed first, as `flushTrack(-1)` does it, and `f` is the state after that. If that flush fails, the outcome is
`HostIoError(write)`, the old image is detached, the new one is not attached and the disk ID is rotated. Else the core is
detached with its construct values and the rotated disk ID, which is all with no file and, beside the outcome
`HostIoError(badLength)`, with a file of no accepted length; a file of an accepted length is attached with the tracks and the
error table its length says, and track 18 is read as `readTrack(-1)` does it, whose failure is `HostIoError(read)` with the image
attached, both buffers zero and every code 0x01. With nothing left to flush, and for a good load track tables the spec admits:
when the load succeeds and what it leaves, and when it fails; no store changes. -/
def Obligations.SetImageFile : Prop :=
  (∀ (s : State) (ro : Bool), ∃ f : State,
     let d := s.tbm.diskID + 1
     let bare : Tbm := { Tbm.construct s.params with
       diskID := d, idCharacter1 := (0x41 : Byte) + (d >>> 4), idCharacter2 := (0x41 : Byte) + (d &&& 0x0F) }
     (s.tbm.imageFile = none → f = s)
       ∧ (s.tbm.imageFile ≠ none →
           exec (.flushTrack (-1)) s = .next f ∧ (f.result = .bool true ∨ f.result = .hostIoError .write))
       ∧ (s.tbm.imageFile ≠ none → f.result = .hostIoError .write → ∀ file,
           exec (.setImageFile file ro) s = .next { f with tbm := bare, result := .hostIoError .write })
       ∧ ((s.tbm.imageFile = none ∨ f.result = .bool true) →
           exec (.setImageFile none ro) s = .next { f with tbm := bare, result := .none }
           ∧ (∀ id, (∀ k, k ≤ 7 → f.lengthOf id ≠ (683 + 17 * k) * 256 ∧ f.lengthOf id ≠ (683 + 17 * k) * 257) →
               exec (.setImageFile (some id) ro) s = .next { f with tbm := bare, result := .hostIoError .badLength })
           ∧ ∀ (id k : Nat) (err : Bool), k ≤ 7 → f.lengthOf id = (683 + 17 * k) * (if err then 257 else 256) →
               let attached : Tbm := { bare with
                 imageFile := some id, readOnly := ro, hasErrorTable := err, nTracks := BitVec.ofNat 8 (35 + k),
                 currentTrack := 18, gcr := [], d64 := [], bad := badAllOk, trackDirtyFlag := false }
               ∃ r, exec (.readTrack (-1)) { f with tbm := attached } = .next r
                 ∧ (r.result = .bool true ∨ r.result = .bool false)
                 ∧ (r.result = .bool true → exec (.setImageFile (some id) ro) s = .next { r with result := .none })
                 ∧ (r.result = .bool false → r.tbm = attached
                     ∧ exec (.setImageFile (some id) ro) s = .next { r with result := .hostIoError .read })))
  ∧ (∀ (s : State) (id k : Nat) (ro err : Bool), (s.tbm.imageFile = none ∨ s.tbm.trackDirtyFlag = false) → k ≤ 7 →
     s.lengthOf id = (683 + 17 * k) * (if err then 257 else 256) →
     let p := s.params
     let spt := sectorsPerTrack p 18
     (ParamsOk p → s.noFailure (if err then 2 else 1) →
         ∃ u, exec (.setImageFile (some id) ro) s = .next u
           ∧ u.result = .none ∧ u.tbm.imageFile = some id ∧ u.tbm.readOnly = ro ∧ u.tbm.hasErrorTable = err
           ∧ u.tbm.nTracks.toNat = 35 + k ∧ u.tbm.currentTrack = 18 ∧ u.tbm.trackDirtyFlag = false
           ∧ (∀ a, u.tbm.d64.read a = if a < 256 * spt then s.byteAt id (trackOffset p 18 + a) else 0)
           ∧ (∀ j, u.tbm.bad.read j =
               if err = true ∧ j < spt then s.byteAt id (errBase p u.tbm + trackOffset p 18 / 256 + j)
               else if j < 24 then 0x01 else 0)
           ∧ (∀ i, u.tbm.gcr.read i = if i < trackSize p 18 then (trackLayout p u.tbm 18 spt).getD i 0x55 else 0)
           ∧ u.fdc = s.fdc ∧ u.tape = s.tape ∧ u.stores = s.stores)
       ∧ ((s.nextFails ∨ err = true ∧ s.ioNext.nextFails) →
         ∃ u, exec (.setImageFile (some id) ro) s = .next u
           ∧ u.result = .hostIoError .read ∧ u.tbm.imageFile = some id ∧ u.tbm.currentTrack = 18
           ∧ (∀ a, u.tbm.gcr.read a = 0) ∧ (∀ a, u.tbm.d64.read a = 0) ∧ (∀ j, j < 24 → u.tbm.bad.read j = 0x01)
           ∧ u.fdc = s.fdc ∧ u.tape = s.tape ∧ u.stores = s.stores))

/-- `closeD64`: a flush whose outcome is discarded, then construct values but for the disk ID (41_track_buffer.md R267,
R259). -/
def Obligations.CloseD64 : Prop :=
  ∀ s : State, ∃ f, exec (.flushTrack (-1)) s = .next f
    ∧ exec .closeD64 s = .next { f with
        tbm := { Tbm.construct s.params with
          diskID := s.tbm.diskID, idCharacter1 := s.tbm.idCharacter1, idCharacter2 := s.tbm.idCharacter2 },
        result := .none }

/-- The geometry of TBM is kept by every step, and the track becomes dirty only through `gcrWriteByte`
(41_track_buffer.md R268, 10_state.md R26). -/
def Obligations.TbmInvariant : Prop :=
  (∀ s t : State, TbmOk s.tbm → step s = .next t → TbmOk t.tbm)
    ∧ ∀ (i : Instr) (s t : State), exec i s = .next t → t.tbm.trackDirtyFlag = true →
        s.tbm.trackDirtyFlag = true ∨ ∃ k v, i = .gcrWriteByte k v

/-! ### Floppy controller: ports and outputs -/

/-- The track and sector registers through both their encodings, the peeks, the head position, the two lines, the side
select, and the reset, which puts every register at its construct value and keeps the image (42_fdc_ports.md R300 to R303,
R316 to R319; 70_reset_and_hazards.md R603). -/
def Obligations.FdcPorts : Prop :=
  (∀ (s : State) (v : Byte),
     (∀ i ∈ [Instr.wtr v, .writeTrackRegister v],
         exec i s = .next { s with fdc := { s.fdc with trackRegister := v }, result := .none })
       ∧ (∀ i ∈ [Instr.rtr, .readTrackRegister], exec i s = .next { s with result := .byte s.fdc.trackRegister })
       ∧ (∀ i ∈ [Instr.wsr v, .writeSectorRegister v],
         exec i s = .next { s with fdc := { s.fdc with sectorRegister := v }, result := .none })
       ∧ (∀ i ∈ [Instr.rsr, .readSectorRegister], exec i s = .next { s with result := .byte s.fdc.sectorRegister }))
  ∧ (∀ (s : State) (h : Byte),
     exec (.peekRegister 0) s = .next { s with result := .byte s.fdc.statusRegister }
       ∧ exec (.peekRegister 1) s = .next { s with result := .byte s.fdc.trackRegister }
       ∧ exec (.peekRegister 2) s = .next { s with result := .byte s.fdc.sectorRegister }
       ∧ exec (.peekRegister 3) s = .next { s with result := .byte s.fdc.dataRegister }
       ∧ (∃ w : BitVec 16, exec .getHeadPosition s = .next { s with result := .word w }
           ∧ w.toNat = s.fdc.currentTrack.toNat * 256 + s.fdc.currentSide.toNat * 128 + s.fdc.sectorRegister.toNat % 128)
       ∧ exec .getInterruptRequest s = .next { s with result := .bool s.fdc.interruptRequestFlag }
       ∧ exec .getDataRequest s = .next { s with result := .bool s.fdc.dataRequestFlag }
       ∧ exec (.setSide h) s
           = .next { s with fdc := { s.fdc with currentSide := BitVec.ofBool (h.getLsbD 0) }, result := .none })
  ∧ (∀ s : State, exec .resetFdc s = .next { s with
     fdc :=
       { commandRegister := 0x00, statusRegister := if s.params.isWD1773 then 0x00 else 0x80, trackRegister := 0x00,
         sectorRegister := 0x01, dataRegister := 0x00, currentTrack := 0, currentSide := 0, buf := [], bufPos := 512,
         xferOffset := 0, dataRequestFlag := false, interruptRequestFlag := false, forceIntPending := false,
         stepDirIn := true, busyHackPhase := false, imageFile := s.fdc.imageFile, readOnly := s.fdc.readOnly,
         nTracks := s.fdc.nTracks, nSides := s.fdc.nSides, nSectorsPerTrack := s.fdc.nSectorsPerTrack, faulted := false },
     result := .none })

/-- A status read: the status byte, with the busy hack bit 0 ORed with the phase, which flips; INTRQ acknowledged unless a
FORCE INTERRUPT is pending (42_fdc_ports.md R307, R308). -/
def Obligations.StatusRead : Prop :=
  ∀ s : State, ∀ i ∈ [Instr.st, .readStatusRegister],
    (s.params.busyFlagHack = false →
        exec i s = .next { s with
          fdc := { s.fdc with interruptRequestFlag := if s.fdc.forceIntPending then s.fdc.interruptRequestFlag else false },
          result := .byte s.fdc.statusRegister })
      ∧ (s.params.busyFlagHack = true →
        exec i s = .next { s with
          fdc := { s.fdc with
            busyHackPhase := !s.fdc.busyHackPhase,
            interruptRequestFlag := if s.fdc.forceIntPending then s.fdc.interruptRequestFlag else false },
          result := .byte (if s.fdc.busyHackPhase then s.fdc.statusRegister ||| 0x01 else s.fdc.statusRegister) })

/-! ### Floppy controller: commands -/

/-- A command byte written through the command port or through `writeCommandRegister` does what the instruction it decodes
to does (43_fdc_commands.md R340, R342). -/
def Obligations.CommandPort : Prop :=
  ∀ (c : Byte) (s : State), ∃ (i : Instr) (t : State), decode ⟨.fdcCommand, [c]⟩ = .ok i ∧ exec i s = .next t
    ∧ exec (.cmd c) s = .next t ∧ exec (.writeCommandRegister c) s = .next t
    ∧ (512 ≤ s.fdc.bufPos → t.fdc.busyHackPhase = true)

/-- The type I commands with no transfer running: where the head and the track register go, the step direction, the status
byte, INTRQ set. RESTORE goes to track 0; SEEK moves the head by the difference of the data and track registers; the steps
move it by one, within 0..`HEAD_MAX`, the track register following modulo 256 when the update bit is set
(43_fdc_commands.md R343 to R349). The index bit of a free draw is free (R345). -/
def Obligations.TypeICommands : Prop :=
  ∀ (u h v : Bool) (r : BitVec 2) (s : State), 512 ≤ s.fdc.bufPos →
    let moved : Int → Byte := fun d =>
      BitVec.ofInt 8 (min (max ((s.fdc.currentTrack.toNat : Int) + d) 0) s.params.headMax.toNat)
    let tr := s.fdc.trackRegister
    let delta : Int := (s.fdc.dataRegister.toNat : Int) - tr.toNat
    let stepped : Bool → Byte → Fdc := fun dir c => { s.fdc.taken c with
      stepDirIn := dir,
      currentTrack := moved (if dir then 1 else -1),
      trackRegister := if u then (if dir then tr + 1 else tr - 1) else tr }
    ∀ i f,
      (i = Instr.restore h v r
          ∧ f = { s.fdc.taken (restoreByte h v r) with currentTrack := 0, trackRegister := 0, stepDirIn := false }
        ∨ i = Instr.seek h v r
          ∧ f = { s.fdc.taken (seekByte h v r) with
              currentTrack := moved delta,
              trackRegister := s.fdc.dataRegister,
              stepDirIn := if 0 < delta then true else if delta < 0 then false else s.fdc.stepDirIn }
        ∨ i = Instr.step u h v r ∧ f = stepped s.fdc.stepDirIn (stepByte u h v r)
        ∨ i = Instr.stepIn u h v r ∧ f = stepped true (stepInByte u h v r)
        ∨ i = Instr.stepOut u h v r ∧ f = stepped false (stepOutByte u h v r)) →
      ∃ (st : Byte) (index : Bool) (d : Nat), TypeIStatus s.params f v index st
        ∧ (s.params.indexBit = .attached → index = s.fdc.imageFile.isSome ∧ d = s.indexDraws)
        ∧ exec i s = .next { s with
            fdc := { f with statusRegister := st, interruptRequestFlag := true }, indexDraws := d, result := .none }

/-- READ SECTOR with no transfer running. At a good position, the store holding the sector and the oracle letting it be read,
the buffer takes the sector's 512 bytes and a read transfer is armed. RECORD NOT FOUND at a bad position, CRC ERROR when the
store read fails: INTRQ set, no transfer, no store changed (43_fdc_commands.md R350 to R353, 42_fdc_ports.md R304). -/
def Obligations.ReadSector : Prop :=
  (∀ (m hs e pc b0 : Bool) (s : State) (id : Nat), 512 ≤ s.fdc.bufPos → s.fdc.imageFile = some id →
     let side := selectedSide s.params s.fdc hs pc
     let off := secOff s.fdc side s.fdc.sectorRegister
     PositionOk s.fdc side s.fdc.sectorRegister → off + 512 ≤ s.lengthOf id → s.noFailure 1 →
     ∃ b : Memory,
       (∀ k, b.read k = if k < 512 then s.byteAt id (off + k) else 0)
       ∧ exec (.rdsec m hs e pc b0) s = .next { s.ioNext with
           fdc := { (s.fdc.taken (rdsecByte m hs e pc b0)).armed s.params with
             currentSide := side, xferOffset := off, buf := b },
           result := .none })
  ∧ (∀ (m hs e pc b0 : Bool) (s : State), 512 ≤ s.fdc.bufPos →
     let side := selectedSide s.params s.fdc hs pc
     let off := secOff s.fdc side s.fdc.sectorRegister
     let f : Fdc := { s.fdc.taken (rdsecByte m hs e pc b0) with currentSide := side }
     (¬ PositionOk s.fdc side s.fdc.sectorRegister →
         exec (.rdsec m hs e pc b0) s
           = .next { s with fdc := f.ended (0x10 ||| bit7Idle s.params), result := .none })
       ∧ ∀ id, s.fdc.imageFile = some id → PositionOk s.fdc side s.fdc.sectorRegister →
           (s.lengthOf id < off + 512 ∨ s.nextFails) →
           ∃ u, exec (.rdsec m hs e pc b0) s = .next u
             ∧ u.fdc = ({ f with xferOffset := off } : Fdc).ended (0x08 ||| bit7Idle s.params)
             ∧ u.result = .none ∧ u.stores = s.stores ∧ u.tbm = s.tbm ∧ u.tape = s.tape)

/-- WRITE SECTOR: WRITE PROTECT before anything else, RECORD NOT FOUND at a bad position, else a write transfer is armed
and the buffer kept; no store changes (43_fdc_commands.md R350, R351, R356 to R358; 42_fdc_ports.md R304). -/
def Obligations.WriteSector : Prop :=
  ∀ (m hs e pc a0 : Bool) (s : State), 512 ≤ s.fdc.bufPos →
    let side := selectedSide s.params s.fdc hs pc
    let f : Fdc := { s.fdc.taken (wrsecByte m hs e pc a0) with currentSide := side }
    ((s.fdc.imageFile = none ∨ s.fdc.readOnly = true) →
        exec (.wrsec m hs e pc a0) s
          = .next { s with fdc := f.ended (0x40 ||| bit7Idle s.params), result := .none })
      ∧ (s.fdc.imageFile ≠ none → s.fdc.readOnly = false → ¬ PositionOk s.fdc side s.fdc.sectorRegister →
        exec (.wrsec m hs e pc a0) s
          = .next { s with fdc := f.ended (0x10 ||| bit7Idle s.params), result := .none })
      ∧ (s.fdc.readOnly = false → PositionOk s.fdc side s.fdc.sectorRegister →
        exec (.wrsec m hs e pc a0) s = .next { s with
          fdc := { f.armed s.params with xferOffset := secOff s.fdc side s.fdc.sectorRegister }, result := .none })

/-- The type III commands with no transfer running. READ ADDRESS: the ID field of the head's track and side with its CRC at
the end of the buffer and a six-byte transfer armed; RECORD NOT FOUND where there is no such track or side. READ TRACK and
WRITE TRACK: a status, INTRQ, no transfer and no store write (43_fdc_commands.md R364, R370, R371; 30_encoding.md R146). -/
def Obligations.TypeIIICommands : Prop :=
  (∀ (hs e b1 b0 : Bool) (s : State), 512 ≤ s.fdc.bufPos →
     let f := s.fdc.taken (rdaddrByte hs e b1 b0)
     let id : List Byte := [s.fdc.currentTrack, s.fdc.currentSide.setWidth 8, 0x01, 0x02]
     let crc := crc16 ([0xA1, 0xA1, 0xA1, 0xFE] ++ id)
     ((s.fdc.imageFile = none ∨ s.fdc.nTracks.toNat ≤ s.fdc.currentTrack.toNat
         ∨ s.fdc.nSides.toNat ≤ s.fdc.currentSide.toNat) →
         exec (.rdaddr hs e b1 b0) s = .next { s with fdc := f.ended (0x10 ||| bit7Idle s.params), result := .none })
       ∧ (s.fdc.imageFile ≠ none → s.fdc.currentTrack.toNat < s.fdc.nTracks.toNat →
         s.fdc.currentSide.toNat < s.fdc.nSides.toNat →
         ∃ b : Memory,
           (∀ k, b.read k =
             if 506 ≤ k ∧ k < 512 then (id ++ [(crc >>> 8).setWidth 8, crc.setWidth 8]).getD (k - 506) 0
             else s.fdc.buf.read k)
           ∧ exec (.rdaddr hs e b1 b0) s = .next { s with
               fdc := { f with
                 buf := b, bufPos := 506, dataRequestFlag := true, statusRegister := 0x23 ||| bit7Idle s.params },
               result := .none }))
  ∧ (∀ (hs e x b0 : Bool) (s : State), 512 ≤ s.fdc.bufPos →
     exec (.rdtrk hs e x b0) s
         = .next { s with fdc := (s.fdc.taken (rdtrkByte hs e x b0)).ended 0xA0, result := .none }
       ∧ exec (.wrtrk hs e x b0) s = .next { s with
           fdc := (s.fdc.taken (wrtrkByte hs e x b0)).ended
             (0x20 ||| (if s.fdc.imageFile = none ∨ s.fdc.readOnly = true then 0x40 else 0) ||| bit7Idle s.params),
           result := .none })

/-- FORCE INTERRUPT, in any state: it ends a transfer, clears BUSY, bit 1 and DRQ, and sets and holds INTRQ by I3 or I2; a
write transfer with at least one byte is padded with zeros and written to its sector first, and a failure of that write sets
status bit 5 (43_fdc_commands.md R380 to R382). That bit 1 is cleared with no transfer running, as R380 has it, against a vector
of 95_test_vectors.md, is the model's reading, notes/assumptions/26.md. -/
def Obligations.ForceInterrupt : Prop :=
  ∀ (i3 i2 i1 i0 : Bool) (s : State),
    let f : Fdc := { s.fdc.stopped with
      interruptRequestFlag := i3 || i2, forceIntPending := i3 || i2, busyHackPhase := true,
      commandRegister := forceintByte i3 i2 i1 i0 }
    let quiet := s.fdc.statusRegister &&& 0xFC
    ∃ (u : State) (b : Memory) (st : Byte), exec (.forceint i3 i2 i1 i0) s = .next u ∧ u.result = .none
      ∧ u.tbm = s.tbm ∧ u.tape = s.tape
      ∧ u.fdc = { f with buf := b, statusRegister := st } ∧ (st = quiet ∨ st = quiet ||| 0x20)
      ∧ (partialWrite s.fdc = false → u = { s with fdc := f, result := .none })
      ∧ ∀ id, partialWrite s.fdc = true → s.fdc.imageFile = some id →
          let off := s.fdc.xferOffset
          (∀ k, k < 512 → b.read k = if k < s.fdc.bufPos then s.fdc.buf.read k else 0)
            ∧ st = (if s.ioFails then quiet ||| 0x20 else quiet)
            ∧ (s.nextFails → u.stores = s.stores)
            ∧ (s.noFailure 1 →
                (∀ x a, u.byteAt x a =
                    if x = id ∧ off ≤ a ∧ a < off + 512
                    then (if a - off < s.fdc.bufPos then s.fdc.buf.read (a - off) else 0) else s.byteAt x a)
                ∧ ∀ x, x ≠ id → u.store x = s.store x)

/-- A command other than FORCE INTERRUPT written during a transfer: with `CMD_WHILE_BUSY = fault` it sets `faulted` and
changes nothing else, and only `resetFdc` ever clears that flag; with `abort_and_execute` it does what it does after the
transfer is ended by FORCE INTERRUPT 0xD0 (43_fdc_commands.md R341, 60_exceptions.md R516). -/
def Obligations.CommandWhileBusy : Prop :=
  (∀ (c : Byte) (s : State), s.fdc.bufPos < 512 → c &&& 0xF0 ≠ 0xD0 →
    (s.params.cmdWhileBusy = .fault →
        exec (.cmd c) s = .next { s with fdc := { s.fdc with faulted := true }, result := .none })
      ∧ (s.params.cmdWhileBusy = .abortAndExecute →
        ∃ u, exec (.cmd 0xD0) s = .next u ∧ exec (.cmd c) s = exec (.cmd c) u))
    ∧ ∀ (i : Instr) (s t : State), exec i s = .next t → s.fdc.faulted = true → i ≠ .resetFdc → t.fdc.faulted = true

/-! ### Floppy controller: the data port -/

/-- A data read: one byte of a read transfer, or the data register outside one; the last byte of a single sector and of an
ID field ends the command (42_fdc_ports.md R310, R313; 43_fdc_commands.md R354, R365). -/
def Obligations.ReadData : Prop :=
  ∀ s : State, ∀ i ∈ [Instr.rdr, .readDataRegister],
    let k := transferKind s.fdc.commandRegister
    let v := s.fdc.buf.read s.fdc.bufPos
    let f : Fdc := { s.fdc with dataRegister := v, bufPos := s.fdc.bufPos + 1 }
    (¬ (s.fdc.bufPos < 512 ∧ (k = some .sectorRead ∨ k = some .idRead)) →
        exec i s = .next { s with result := .byte s.fdc.dataRegister })
      ∧ (s.fdc.bufPos < 511 → (k = some .sectorRead ∨ k = some .idRead) →
        exec i s = .next { s with fdc := f, result := .byte v })
      ∧ (s.fdc.bufPos = 511 → k = some .sectorRead → s.fdc.commandRegister.getLsbD 4 = false →
        exec i s = .next { s with fdc := f.stopped.ended (s.fdc.statusRegister &&& 0xFC), result := .byte v })
      ∧ (s.fdc.bufPos = 511 → k = some .idRead →
        exec i s = .next { s with
          fdc := ({ f.stopped with sectorRegister := s.fdc.buf.read 506 } : Fdc).ended (0x20 ||| bit7Idle s.params),
          result := .byte v })

/-- A data write: the data register always; in a write transfer the buffer too; the 512th byte writes the sector to the
image, single or multi-sector, and ends a single-sector command, or any with the write error bit where the write fails
(42_fdc_ports.md R312, R313; 43_fdc_commands.md R359, R360). What a multi-sector command does next is
`MultiSectorTransfers`. -/
def Obligations.WriteData : Prop :=
  ∀ (v : Byte) (s : State), ∀ i ∈ [Instr.wdr v, .writeDataRegister v],
    let k := transferKind s.fdc.commandRegister
    let off := s.fdc.xferOffset
    (¬ (s.fdc.bufPos < 512 ∧ k = some .sectorWrite) →
        exec i s = .next { s with fdc := { s.fdc with dataRegister := v }, result := .none })
      ∧ (s.fdc.bufPos < 512 → k = some .sectorWrite →
        ∃ (u : State) (b : Memory), exec i s = .next u ∧ u.result = .none ∧ u.tbm = s.tbm ∧ u.tape = s.tape
          ∧ (∀ a, b.read a = if a = s.fdc.bufPos then v else s.fdc.buf.read a)
          ∧ (s.fdc.bufPos < 511 → u.stores = s.stores
              ∧ u.fdc = { s.fdc with dataRegister := v, buf := b, bufPos := s.fdc.bufPos + 1 })
          ∧ ∀ id, s.fdc.bufPos = 511 → s.fdc.imageFile = some id →
              let f : Fdc := { s.fdc.stopped with dataRegister := v, buf := b }
              (s.nextFails → u.stores = s.stores ∧ u.fdc = f.ended (0x20 ||| bit7Idle s.params))
              ∧ (s.noFailure 1 →
                  (s.fdc.commandRegister.getLsbD 4 = false → u.fdc = f.ended (s.fdc.statusRegister &&& 0xFC))
                  ∧ (∀ x a, u.byteAt x a =
                      if x = id ∧ off ≤ a ∧ a < off + 512 then b.read (a - off) else s.byteAt x a)
                  ∧ ∀ x, x ≠ id → u.store x = s.store x))

/-- The last byte of a sector of a multi-sector command: the sector register advances and the next sector is armed when its
position is good, else the command ends with RECORD NOT FOUND; INTRQ is set only where the command ends. A read ends with CRC
ERROR where the next sector cannot be read; a write has its 512 bytes stored at the old sector's place first, and its reissue
checks write protect first (43_fdc_commands.md R351, R353, R354, R357, R359, R375). -/
def Obligations.MultiSectorTransfers : Prop :=
  ∀ (s : State) (id : Nat), s.fdc.bufPos = 511 → s.fdc.commandRegister.getLsbD 4 = true → s.fdc.imageFile = some id →
    let c := s.fdc.commandRegister
    let side := selectedSide s.params s.fdc (c.getLsbD 3) (c.getLsbD 1)
    let next := s.fdc.sectorRegister + 1
    let off := secOff s.fdc side next
    let f : Byte → Fdc := fun v =>
      { s.fdc.stopped with dataRegister := v, sectorRegister := next, currentSide := side }
    (transferKind c = some .sectorRead → ∀ i ∈ [Instr.rdr, .readDataRegister],
        let v := s.fdc.buf.read 511
        (¬ PositionOk s.fdc side next →
            exec i s = .next { s with fdc := (f v).ended (0x10 ||| bit7Idle s.params), result := .byte v })
          ∧ (PositionOk s.fdc side next → off + 512 ≤ s.lengthOf id → s.noFailure 1 →
            ∃ b : Memory, (∀ k, b.read k = if k < 512 then s.byteAt id (off + k) else 0)
              ∧ exec i s = .next { s.ioNext with
                  fdc := { (f v).armed s.params with xferOffset := off, buf := b }, result := .byte v })
          ∧ (PositionOk s.fdc side next → (s.lengthOf id < off + 512 ∨ s.nextFails) →
            ∃ u, exec i s = .next u ∧ u.result = .byte v ∧ u.stores = s.stores ∧ u.tbm = s.tbm ∧ u.tape = s.tape
              ∧ u.fdc = ({ f v with xferOffset := off } : Fdc).ended (0x08 ||| bit7Idle s.params)))
    ∧ (transferKind c = some .sectorWrite → s.noFailure 1 → ∀ v, ∀ i ∈ [Instr.wdr v, .writeDataRegister v],
        let at0 := s.fdc.xferOffset
        ∃ (u : State) (b : Memory), exec i s = .next u ∧ u.result = .none ∧ u.tbm = s.tbm ∧ u.tape = s.tape
          ∧ (∀ a, b.read a = if a = 511 then v else s.fdc.buf.read a)
          ∧ (∀ x a, u.byteAt x a =
              if x = id ∧ at0 ≤ a ∧ a < at0 + 512 then b.read (a - at0) else s.byteAt x a)
          ∧ (∀ x, x ≠ id → u.store x = s.store x)
          ∧ (s.fdc.readOnly = true →
              u.fdc = ({ f v with buf := b } : Fdc).ended (0x40 ||| bit7Idle s.params))
          ∧ (s.fdc.readOnly = false → ¬ PositionOk s.fdc side next →
              u.fdc = ({ f v with buf := b } : Fdc).ended (0x10 ||| bit7Idle s.params))
          ∧ (s.fdc.readOnly = false → PositionOk s.fdc side next →
              u.fdc = { (f v).armed s.params with buf := b, xferOffset := off }))

/-! ### Floppy controller: attach -/

/-- `setDiskImageFile` with explicit geometry and no transfer running: attached when the length fits, else detached with the
outcome the rule names; every register is kept (42_fdc_ports.md R320, R323). -/
def Obligations.DiskAttachExplicit : Prop :=
  ∀ (s : State) (id t h n : Nat) (ro : Bool), 512 ≤ s.fdc.bufPos → 0 < t → 0 < h → 0 < n →
    let bare : Fdc := { s.fdc with imageFile := none, readOnly := true, nTracks := 0, nSides := 0, nSectorsPerTrack := 0 }
    ((2 < h ∨ 255 < t ∨ 255 < n) →
        exec (.setDiskImageFile (some id) ro t h n) s
          = .next { s with fdc := bare, result := .hostIoError .badGeometry })
      ∧ (h ≤ 2 → t ≤ 255 → n ≤ 255 → s.lengthOf id ≠ t * h * n * 512 →
        exec (.setDiskImageFile (some id) ro t h n) s
          = .next { s with fdc := bare, result := .hostIoError .badLength })
      ∧ (h ≤ 2 → t ≤ 255 → n ≤ 255 → s.lengthOf id = t * h * n * 512 →
        exec (.setDiskImageFile (some id) ro t h n) s = .next { s with
          fdc := { bare with
            imageFile := some id, readOnly := ro, nTracks := BitVec.ofNat 8 t, nSides := BitVec.ofNat 2 h,
            nSectorsPerTrack := BitVec.ofNat 8 n },
          result := .none })

/-- `setDiskImageFile` with geometry to infer and no transfer running: from a FAT boot sector that holds one, else from the
size table; a failed read of the boot sector is `HostIoError(read)`; no geometry is `HostIoError(badGeometry)`; a length
that does not fit is `HostIoError(badLength)` (42_fdc_ports.md R320 to R323). -/
def Obligations.DiskAttachInferred : Prop :=
  ∀ (s : State) (id t h n : Nat) (ro : Bool), 512 ≤ s.fdc.bufPos → (t = 0 ∨ h = 0 ∨ n = 0) →
    let bare : Fdc := { s.fdc with imageFile := none, readOnly := true, nTracks := 0, nSides := 0, nSectorsPerTrack := 0 }
    let word : Nat → Nat := fun a => (s.byteAt id a).toNat + 256 * (s.byteAt id (a + 1)).toNat
    let cyl := word 24 * word 26
    let bpb : Prop := word 11 = 512 ∧ 1 ≤ word 24 ∧ word 24 ≤ 255 ∧ (word 26 = 1 ∨ word 26 = 2) ∧ 0 < word 19
      ∧ word 19 % cyl = 0 ∧ 1 ≤ word 19 / cyl ∧ word 19 / cyl ≤ 255
    let row := s.params.geometryBySize.find? fun r => r.length == s.lengthOf id
    let attached : Nat → Nat → Nat → Fdc → Result → Prop := fun a b c f r =>
      (s.lengthOf id = a * b * c * 512 → r = .none
        ∧ f = { bare with
            imageFile := some id, readOnly := ro, nTracks := BitVec.ofNat 8 a, nSides := BitVec.ofNat 2 b,
            nSectorsPerTrack := BitVec.ofNat 8 c })
      ∧ (s.lengthOf id ≠ a * b * c * 512 → r = .hostIoError .badLength ∧ f = bare)
    ∃ u, exec (.setDiskImageFile (some id) ro t h n) s = .next u ∧ u.stores = s.stores ∧ u.tbm = s.tbm ∧ u.tape = s.tape
      ∧ (512 ≤ s.lengthOf id → s.noFailure 1 → bpb → attached (word 19 / cyl) (word 26) (word 24) u.fdc u.result)
      ∧ ((s.lengthOf id < 512 ∨ s.noFailure 1 ∧ ¬ bpb) →
          (∀ g, row = some g → attached g.tracks g.sides g.sectors u.fdc u.result)
          ∧ (row = none → u.result = .hostIoError .badGeometry ∧ u.fdc = bare))
      ∧ (512 ≤ s.lengthOf id → s.nextFails → u.result = .hostIoError .read ∧ u.fdc = bare)

/-- Detach, by `setDiskImageFile` with no file or by `closeFdc`: registers kept, a transfer ended, a write transfer with at
least one byte padded with zeros and written to the old image first, with no outcome; and an attach is an attach after that
detach (42_fdc_ports.md R320, R325). That a failure of that write sets status bit 5 here too is R502's re-attach row read
beside R320 (60_exceptions.md R502; notes/assumptions/17.md). -/
def Obligations.DiskDetach : Prop :=
  ∀ (s : State) (ro : Bool) (t h n : Nat),
    (∀ i ∈ [Instr.setDiskImageFile none ro t h n, .closeFdc],
      let bare : Fdc → Fdc := fun f =>
        { f with imageFile := none, readOnly := true, nTracks := 0, nSides := 0, nSectorsPerTrack := 0 }
      (512 ≤ s.fdc.bufPos → exec i s = .next { s with fdc := bare s.fdc, result := .none })
        ∧ (s.fdc.bufPos < 512 → partialWrite s.fdc = false →
          exec i s = .next { s with fdc := bare s.fdc.stopped, result := .none })
        ∧ ∀ id, partialWrite s.fdc = true → s.fdc.imageFile = some id →
            let off := s.fdc.xferOffset
            let quiet := s.fdc.statusRegister &&& 0xFC
            ∃ (u : State) (b : Memory), exec i s = .next u ∧ u.result = .none ∧ u.tbm = s.tbm ∧ u.tape = s.tape
              ∧ u.fdc = bare { s.fdc.stopped with
                  buf := b, statusRegister := if s.ioFails then quiet ||| 0x20 else quiet }
              ∧ (∀ k, k < 512 → b.read k = if k < s.fdc.bufPos then s.fdc.buf.read k else 0)
              ∧ (s.nextFails → u.stores = s.stores)
              ∧ (s.noFailure 1 →
                  (∀ x a, u.byteAt x a =
                    if x = id ∧ off ≤ a ∧ a < off + 512
                    then (if a - off < s.fdc.bufPos then s.fdc.buf.read (a - off) else 0) else s.byteAt x a)
                  ∧ ∀ x, x ≠ id → u.store x = s.store x))
    ∧ ∀ id, ∃ u, exec (.setDiskImageFile none ro t h n) s = .next u
        ∧ exec (.setDiskImageFile (some id) ro t h n) s = exec (.setDiskImageFile (some id) ro t h n) u

/-- Every step keeps the FDC invariant: DRQ and BUSY exactly while a transfer runs, whose kind the command register names
(10_state.md R33). -/
def Obligations.FdcTransferInvariant : Prop :=
  ∀ s t : State, FdcTransferOk s.fdc → step s = .next t → FdcTransferOk t.fdc

/-- Every step keeps the FDC geometry legal, the head within 0..`HEAD_MAX` and a write transfer on a writable image
(10_state.md R30, 43_fdc_commands.md R357), for a size table whose rows are legal geometries. -/
def Obligations.FdcGeometryInvariant : Prop :=
  ∀ s t : State, GeometryRowsOk s.params →
    FdcGeometryOk s.fdc ∧ FdcWriteOk s.fdc ∧ FdcHeadOk s.params s.fdc → step s = .next t →
    FdcGeometryOk t.fdc ∧ FdcWriteOk t.fdc ∧ FdcHeadOk t.params t.fdc

/-! ### Tape: transport -/

/-- With no tape open every tape operation but `openTape` changes nothing and returns its refusal result; on an open tape,
`play`, `record`, the output signal and the two getters (44_tape.md R402 to R404, R407 to R409). -/
def Obligations.TapeTransport : Prop :=
  (∀ (s : State) (b : Bool) (v : Byte) (q : Rat), s.tape = none →
     exec .getInputSignal s = .next { s with result := .byte 0 }
       ∧ (∀ i ∈ [Instr.addCuePoint, .deleteNearestCuePoint], exec i s = .next { s with result := .bool false })
       ∧ exec .getTapeInfo s = .next { s with result := .tapeInfo 0 0 0 false false false [] }
       ∧ ∀ i ∈ [Instr.play, .record, .stop, .setIsMotorOn b, .runOneSample, .setOutputSignal v, .tapeSeek q,
             .seekToCuePoint b q, .deleteAllCuePoints, .closeTape],
           exec i s = .next { s with result := .none })
  ∧ (∀ (s : State) (t : Tape) (v : Byte), s.tape = some t →
     exec .play s
         = .next { s with tape := some { t with isRecordOn := false, isPlaybackOn := true }, result := .none }
       ∧ (t.mode ≠ .readOnly → t.isLegacy = false →
         exec .record s
           = .next { s with tape := some { t with isRecordOn := true, isPlaybackOn := true }, result := .none })
       ∧ ((t.mode = .readOnly ∨ t.isLegacy = true) → exec .record s = .next { s with result := .none })
       ∧ exec (.setOutputSignal v) s = .next { s with
           tape := some { t with outputState := BitVec.ofNat 8 (v.toNat % 2 ^ t.requestedBitsPerSample) },
           result := .none }
       ∧ exec .getInputSignal s = .next { s with result := .byte t.inputState }
       ∧ exec .getTapeInfo s = .next { s with
           result := .tapeInfo t.tapePosition t.tapeLength t.sampleRate t.isPlaybackOn t.isRecordOn t.isMotorOn
             t.cuePoints })

/-- `stop`, the motor line and `seek`: the flags or the position they set, then a flush where the rule flushes; `seek` goes
to the sample of its time, clamped to the tape, the cursor of a LegacyTap tape with it (44_tape.md R405, R406, R420). What
the flush does to a tape of each format is stated by `FlushTape`. -/
def Obligations.StopMotorSeek : Prop :=
  ∀ (s : State) (t : Tape) (b : Bool) (q : Rat), s.tape = some t →
    exec .stop s = .next (flushInto { t with isPlaybackOn := false, isRecordOn := false } s)
      ∧ (t.isMotorOn = true → b = false →
        exec (.setIsMotorOn b) s = .next (flushInto { t with isMotorOn := false } s))
      ∧ ((t.isMotorOn = false ∨ b = true) →
        exec (.setIsMotorOn b) s = .next { s with tape := some { t with isMotorOn := b }, result := .none })
      ∧ ∃ p : Nat, (p : Int) = min (max (q * (t.sampleRate : Rat)).floor 0) t.tapeLength
          ∧ ∃ m : Medium, exec (.tapeSeek q) s = .next (flushInto { t with tapePosition := p, medium := m } s)
            ∧ (∀ l, t.medium = .legacyTap l → m = .legacyTap { l with cursor := cursorAt l.version l.pulseData p })
            ∧ (t.isLegacy = false → m = t.medium)

/-- `seekToCuePoint`: the nearest cue point in the direction within the skip, else the whole skip, clamped to the tape, and
then a flush (44_tape.md R421), which `FlushTape` states. -/
def Obligations.SeekToCuePoint : Prop :=
  ∀ (s : State) (t : Tape) (q : Rat) (forward : Bool), s.tape = some t →
    let k : Int := max (q * (t.sampleRate : Rat)).floor 0
    let inRange : Nat → Prop := fun c => c ∈ t.cuePoints ∧
      (if forward then (t.tapePosition : Int) < c ∧ (c : Int) ≤ t.tapePosition + k
        else (t.tapePosition : Int) - k ≤ c ∧ (c : Int) < t.tapePosition)
    ∃ p : Nat, exec (.seekToCuePoint forward q) s = .next (flushInto (t.moveTo p) s)
      ∧ ((∀ c, ¬ inRange c) →
          (p : Int) = min (max (if forward then t.tapePosition + k else t.tapePosition - k) 0) t.tapeLength)
      ∧ ∀ c, inRange c → (∀ d, inRange d → if forward then c ≤ d else d ≤ c) → p = min c t.tapeLength

/-- The flush of a tape (44_tape.md R433). Native: the dirty block's samples, packed, are written at `blockOffset`, which is
R432's 4096 + (4096 c fb) div 8, the changed cue slots at bytes 16 to 4095 (30_encoding.md R160, R161), and nothing elsewhere.
LegacyTap: nothing. SoundFile (R452), the model's reading: the dirty frame block is laid over the stored frames, silence where
there were none, an unreadable container counting as no frames (`framesOf`; DEDUCED, notes/assumptions/22.md), and the container
written (DESIGN CHOICE, notes/assumptions/11.md). The dirty flags are cleared also where a write fails, which is
`HostIoError(write)`. -/
def Obligations.FlushTape : Prop :=
  (∀ (s : State) (t : Tape) (n : NativeTape), t.medium = .native n → t.cuePoints.length ≤ 1019 →
     let t' : Tape := { t with
       cueDirty := if t.mode = .readOnly then t.cueDirty else false, medium := .native { n with blockDirty := false } }
     let cues := t.cueDirty = true ∧ t.mode ≠ .readOnly
     let off := blockOffset t.fileBitsPerSample (n.blockIndex.getD 0)
     let count := blockCount t (n.blockIndex.getD 0)
     let block := n.blockDirty = true ∧ n.blockIndex.isSome = true ∧ 0 < count
     (flushInto t s).tape = some t' ∧ (flushInto t s).tbm = s.tbm ∧ (flushInto t s).fdc = s.fdc
       ∧ ((block ∧ cues → s.noFailure 2) → s.noFailure 1 → (flushInto t s).result = .none
           ∧ ∀ x a, (flushInto t s).byteAt x a =
               if x = t.store ∧ n.blockDirty = true ∧ n.blockIndex.isSome = true ∧ off ≤ a
                   ∧ a < off + (count * t.fileBitsPerSample + 7) / 8
               then (packSamples s.params.samplePacking t.fileBitsPerSample (n.blockBuf.readBytes 0 count)).getD (a - off) 0
               else if x = t.store ∧ cues ∧ 16 ≤ a ∧ a < 4096
               then (t.cuePoints.flatMap (beBytes 4)).getD (a - 16) 0xFF
               else s.byteAt x a)
       ∧ (¬ block → ¬ cues → flushInto t s = { s with tape := some t', result := .none })
       ∧ (s.nextFails → block ∨ cues → (flushInto t s).result = .hostIoError .write)
       ∧ (s.nextFails → ¬ (block ∧ cues) → (flushInto t s).stores = s.stores)
       ∧ (block → cues → s.noFailure 1 → s.ioNext.nextFails → (flushInto t s).result = .hostIoError .write))
  ∧ (∀ (s : State) (t : Tape) (l : LegacyTape), t.medium = .legacyTap l →
     flushInto t s = { s with tape := some t, result := .none })
  ∧ (∀ (s : State) (t : Tape) (f : SoundTape), t.medium = .soundFile f →
     let t' : Tape := { t with medium := .soundFile { f with frameBlockDirty := false } }
     let lo := 1024 * f.frameBlockIndex.getD 0
     let count := min 1024 (t.tapeLength - lo)
     let writes := f.frameBlockDirty = true ∧ f.frameBlockIndex.isSome = true ∧ 0 < count
     let old := framesOf (s.store t.store)
     (flushInto t s).tape = some t' ∧ (flushInto t s).tbm = s.tbm ∧ (flushInto t s).fdc = s.fdc
       ∧ (¬ writes → flushInto t s = { s with tape := some t', result := .none })
       ∧ (writes → s.nextFails → (flushInto t s).result = .hostIoError .write ∧ (flushInto t s).stores = s.stores)
       ∧ (writes → s.noFailure 1 → f.frameBuf.length = 1024 →
         ∃ fs : List (List Rat), (flushInto t s).result = .none
           ∧ (flushInto t s).store t.store
               = .container { nChannels := f.nChannels, sampleRate := t.sampleRate, frames := fs }
           ∧ (∀ x, x ≠ t.store → (flushInto t s).store x = s.store x)
           ∧ fs.length = max old.length (lo + count)
           ∧ ∀ k, k < fs.length → fs.getD k [] =
               if lo ≤ k ∧ k < lo + count then f.frameBuf.getD (k - lo) []
               else if k < old.length then old.getD k [] else List.replicate f.nChannels 0))

/-! ### Tape: the sample tick -/

/-- A tick that plays or records nothing (the motor off, no key pressed, playback at the end, recording at the 32-bit limit
or, which is notes/assumptions/14.md, past it) only makes the input signal 0. A tick of a Native tape whose block is resident: playing reads the sample, requantized;
recording deletes a cue point at the position, stores the output sample, requantized, and the tape grows; the position moves
by one and no store changes (44_tape.md R410, R426, R430, R431; 60_exceptions.md R535). -/
def Obligations.Tick : Prop :=
  (∀ (s : State) (t : Tape), s.tape = some t →
     (t.isMotorOn = false ∨ t.isRecordOn = false ∧ t.isPlaybackOn = false
       ∨ t.isRecordOn = false ∧ t.tapeLength ≤ t.tapePosition ∨ t.isRecordOn = true ∧ 0xFFFFFFFE ≤ t.tapePosition) →
     exec .runOneSample s = .next { s with tape := some { t with inputState := 0 }, result := .none })
  ∧ (∀ (s : State) (t : Tape) (n : NativeTape), s.tape = some t → t.medium = .native n → t.isMotorOn = true →
     n.blockIndex = some (t.tapePosition / 4096) →
     let r := t.requestedBitsPerSample
     let fb := t.fileBitsPerSample
     let x := n.blockBuf.read (t.tapePosition % 4096)
     (t.isRecordOn = false → t.isPlaybackOn = true → t.tapePosition < t.tapeLength →
         exec .runOneSample s = .next { s with
           tape := some { t with
             inputState := if fb ≤ r then x <<< (r - fb) else x >>> (fb - r), tapePosition := t.tapePosition + 1 },
           result := .none })
       ∧ (t.isRecordOn = true → t.tapePosition < 0xFFFFFFFE →
         ∃ b : Memory,
           (∀ k, b.read k =
             if k = t.tapePosition % 4096
             then (if r ≤ fb then t.outputState <<< (fb - r) else t.outputState >>> (r - fb)) else n.blockBuf.read k)
           ∧ exec .runOneSample s = .next { s with
               tape := some { t with
                 cuePoints := t.cuePoints.filter (fun c => c != t.tapePosition),
                 cueDirty := t.cueDirty || decide (t.tapePosition ∈ t.cuePoints),
                 tapePosition := t.tapePosition + 1, tapeLength := max t.tapeLength (t.tapePosition + 1), inputState := 0,
                 medium := .native { n with blockBuf := b, blockDirty := true } },
               result := .none }))

/-- A tick of a Native tape that crosses into another block, whatever the draws. The old block, when it is dirty and holds a
sample of the tape, is written at its place in the store and nowhere else, packed; where that write fails no store changes, and
`HostIoError(write)` is raised after the whole tick. The new block is what the store then holds of it below the length, 0 where
it holds nothing, and all 0 where the read of the store fails, which raises nothing (60_exceptions.md R503): the draw after the
write's, if one was made, is the load's. Playing reads the new block's sample, recording stores the output sample in it and makes
it dirty (44_tape.md R410, R426, R430 to R432). That a write and a load take one draw each is notes/assumptions/18.md. -/
def Obligations.TickBlockCrossing : Prop :=
  ∀ (s : State) (t : Tape) (n : NativeTape), s.tape = some t → t.medium = .native n → t.isMotorOn = true →
    validBits t.fileBitsPerSample = true → n.blockIndex ≠ some (t.tapePosition / 4096) →
    let r := t.requestedBitsPerSample
    let fb := t.fileBitsPerSample
    let pos := t.tapePosition
    let old := n.blockIndex.getD 0
    let count := min 4096 (t.tapeLength - 4096 * old)
    let off := 4096 + 4096 * old * fb / 8
    let writes := n.blockDirty = true ∧ n.blockIndex.isSome = true ∧ 0 < count
    let writeFails := writes ∧ s.ioFails = true
    let loadFails := if writes then s.ioNext.ioFails else s.ioFails
    let loaded : State → Nat → Byte := fun u q =>
      let a := 4096 + q * fb / 8
      if loadFails = false ∧ q < t.tapeLength ∧ a < u.lengthOf t.store
      then unpackSample s.params.samplePacking fb q (u.byteAt t.store a) else 0
    let written : State → Prop := fun u =>
      (¬ writes ∨ writeFails → u.stores = s.stores) ∧ (∀ x, x ≠ t.store → u.store x = s.store x)
        ∧ ∀ a, u.byteAt t.store a =
            if writes ∧ ¬ writeFails ∧ off ≤ a ∧ a < off + (count * fb + 7) / 8
            then (packSamples s.params.samplePacking fb (n.blockBuf.readBytes 0 count)).getD (a - off) 0
            else s.byteAt t.store a
    let played : Memory → Byte → Tape := fun b x => { t with
      inputState := if fb ≤ r then x <<< (r - fb) else x >>> (fb - r), tapePosition := pos + 1,
      medium := .native { blockBuf := b, blockIndex := some (pos / 4096), blockDirty := false } }
    let recorded : Memory → Tape := fun b => { t with
      cuePoints := t.cuePoints.filter (fun c => c != pos), cueDirty := t.cueDirty || decide (pos ∈ t.cuePoints),
      tapePosition := pos + 1, tapeLength := max t.tapeLength (pos + 1), inputState := 0,
      medium := .native { blockBuf := b, blockIndex := some (pos / 4096), blockDirty := true } }
    let plays := t.isRecordOn = false ∧ t.isPlaybackOn = true ∧ pos < t.tapeLength
    let records := t.isRecordOn = true ∧ pos < 0xFFFFFFFE
    (plays ∨ records) →
      ∃ u b, exec .runOneSample s = .next u
        ∧ u.result = (if writeFails then .hostIoError .write else .none) ∧ u.tbm = s.tbm ∧ u.fdc = s.fdc ∧ written u
        ∧ (∀ k, k < 4096 → (plays ∨ k ≠ pos % 4096) → b.read k = loaded u (4096 * (pos / 4096) + k))
        ∧ (plays → u.tape = some (played b (loaded u pos)))
        ∧ (records → u.tape = some (recorded b)
            ∧ b.read (pos % 4096)
                = if r ≤ fb then t.outputState <<< (fb - r) else t.outputState >>> (r - fb))

/-- A tick of a LegacyTap tape whose cursor stands at the position plays the closed form of the signal: level 1 exactly when
an odd number of half-waves end at or before tick `16·pos`; and the cursor stands at the next position (44_tape.md R442,
R443, R410). -/
def Obligations.LegacySignal : Prop :=
  ∀ (s : State) (t : Tape) (l : LegacyTape), s.tape = some t → t.medium = .legacyTap l → t.isMotorOn = true →
    t.isRecordOn = false → t.isPlaybackOn = true → t.tapePosition < t.tapeLength → 1 ≤ t.requestedBitsPerSample →
    l.cursor = cursorAt l.version l.pulseData t.tapePosition →
    exec .runOneSample s = .next { s with
      tape := some { t with
        inputState :=
          if signalLevel (halfWaves l.version l.pulseData) (16 * t.tapePosition)
          then 1 <<< (t.requestedBitsPerSample - 1) else 0,
        tapePosition := t.tapePosition + 1,
        medium := .legacyTap { l with cursor := cursorAt l.version l.pulseData (t.tapePosition + 1) } },
      result := .none }

/-- A tick of a SoundFile tape. Playing gives the sample of the channel at the position, inverted and converted; recording puts
a frame with the output sample in the channel and silence in the others; a tick into another block of 1024 frames brings in the
stored frames below the length, silence elsewhere or where the read fails, after the old block, when dirty, is flushed; where that
flush fails, the tick is that of the block made clean, and the failure is raised after it; and a sample converted and converted back is the same (44_tape.md R410, R451, R452,
R432). With a filter the sample is `SOUND_FILTER`'s, of the channel's whole sequence (R455; notes/assumptions/10.md,
22.md and 28.md). -/
def Obligations.SoundTicks : Prop :=
  (∀ (r : Nat) (v : Byte) (inv : Bool), validBits r = true → v.toNat < 2 ^ r →
     fromReal r (invertIf inv (invertIf inv (toReal r v))) = v ∧ -1 ≤ toReal r v ∧ toReal r v ≤ 1)
  ∧ (∀ (s : State) (t : Tape) (f : SoundTape), s.tape = some t → t.medium = .soundFile f → t.isMotorOn = true →
     let r := t.requestedBitsPerSample
     let pos := t.tapePosition
     let sample : Rat → Byte := fun y =>
       BitVec.ofInt 8 (min (max (((if f.invert then -y else y) + 1) * (2 ^ (r - 1) : Nat)).floor 0) (2 ^ r - 1 : Nat))
     let value : Rat := ((t.outputState.toNat : Rat) + 1 / 2) / (2 ^ (r - 1) : Nat) - 1
     let frame : List Rat := (List.replicate f.nChannels 0).set f.channel (if f.invert then -value else value)
     let heard : SoundTape → Rat := fun g =>
       if f.filterOn = true ∧ s.params.soundFilterSupplied = true then Config.soundFilter (channelSamples t g s) pos
       else (g.frameBuf.getD (pos % 1024) []).getD f.channel 0
     let plays := t.isRecordOn = false ∧ t.isPlaybackOn = true ∧ pos < t.tapeLength
     let records := t.isRecordOn = true ∧ pos < 0xFFFFFFFE
     let played : SoundTape → Byte → Tape := fun g x =>
       { t with inputState := x, tapePosition := pos + 1, medium := .soundFile g }
     let recorded : SoundTape → Tape := fun g => { t with
       cuePoints := t.cuePoints.filter (fun c => c != pos), cueDirty := t.cueDirty || decide (pos ∈ t.cuePoints),
       tapePosition := pos + 1, tapeLength := max t.tapeLength (pos + 1), inputState := 0, medium := .soundFile g }
     let stored := framesOf (s.store t.store)
     (f.frameBlockIndex = some (pos / 1024) → plays →
         exec .runOneSample s = .next { s with tape := some (played f (sample (heard f))), result := .none })
       ∧ (f.frameBlockIndex = some (pos / 1024) → records →
         exec .runOneSample s = .next { s with
           tape := some (recorded
             { f with frameBuf := f.frameBuf.set (pos % 1024) frame, frameBlockDirty := true }),
           result := .none })
       ∧ (f.frameBlockIndex ≠ some (pos / 1024) → f.frameBlockDirty = false → (plays ∨ records) →
         ∃ (u : State) (fs : List (List Rat)), exec .runOneSample s = .next u ∧ u.result = .none ∧ u.stores = s.stores
           ∧ fs.length = 1024
           ∧ (s.noFailure 1 → ∀ j, j < 1024 → fs.getD j [] =
               if 1024 * (pos / 1024) + j < t.tapeLength ∧ 1024 * (pos / 1024) + j < stored.length
               then stored.getD (1024 * (pos / 1024) + j) [] else List.replicate f.nChannels 0)
           ∧ (s.nextFails → ∀ j, j < 1024 → fs.getD j [] = List.replicate f.nChannels 0)
           ∧ (let g : SoundTape :=
                { f with frameBuf := fs, frameBlockIndex := some (pos / 1024), frameBlockDirty := false }
              (plays → u.tape = some (played g (sample (heard g))))
                ∧ (records → u.tape = some (recorded
                    { g with frameBuf := fs.set (pos % 1024) frame, frameBlockDirty := true }))))
       ∧ (f.frameBlockIndex ≠ some (pos / 1024) → (plays ∨ records) → s.noFailure 1 →
         exec .runOneSample s = exec .runOneSample (flushInto t s))
       ∧ (∀ c, f.frameBlockIndex = some c → c ≠ pos / 1024 → f.frameBlockDirty = true → 1024 * c < t.tapeLength →
         (plays ∨ records) → s.nextFails →
         ∃ v, exec .runOneSample
               { s.ioNext with tape := some { t with medium := .soundFile { f with frameBlockDirty := false } } } = .next v
           ∧ v.result = .none ∧ v.stores = s.stores
           ∧ exec .runOneSample s = .next { v with result := .hostIoError .write }))

/-! ### Tape: cue points -/

/-- The cue-point operations on an open tape with an ascending table: adding keeps it ascending and adds the position,
unless it is there or the table is full (or the position is the sentinel, which is notes/assumptions/14.md); deleting the nearest removes the nearest, the lower on a tie; deleting all empties
the table (44_tape.md R422 to R424). -/
def Obligations.CuePoints : Prop :=
  ∀ (s : State) (t : Tape), s.tape = some t → t.cuePoints.Pairwise (fun a b => a < b) →
    let pos := t.tapePosition
    (pos ∈ t.cuePoints → exec .addCuePoint s = .next { s with result := .bool true })
      ∧ (pos ∉ t.cuePoints → (t.cuePoints.length = 1019 ∨ pos = 0xFFFFFFFF) →
        exec .addCuePoint s = .next { s with result := .bool false })
      ∧ (pos ∉ t.cuePoints → t.cuePoints.length ≠ 1019 → pos ≠ 0xFFFFFFFF →
        ∃ cs : List Nat, cs.Pairwise (fun a b => a < b) ∧ (∀ c, c ∈ cs ↔ c = pos ∨ c ∈ t.cuePoints)
          ∧ exec .addCuePoint s
              = .next { s with tape := some { t with cuePoints := cs, cueDirty := true }, result := .bool true })
      ∧ (t.cuePoints = [] → exec .deleteNearestCuePoint s = .next { s with result := .bool false })
      ∧ (∀ c ∈ t.cuePoints,
          (∀ d ∈ t.cuePoints, ((c : Int) - pos).natAbs < ((d : Int) - pos).natAbs
            ∨ ((c : Int) - pos).natAbs = ((d : Int) - pos).natAbs ∧ c ≤ d) →
          exec .deleteNearestCuePoint s = .next { s with
            tape := some { t with cuePoints := t.cuePoints.filter (fun d => d != c), cueDirty := true },
            result := .bool true })
      ∧ exec .deleteAllCuePoints s = .next { s with
          tape := some { t with cuePoints := [], cueDirty := t.cueDirty || decide (t.cuePoints ≠ []) },
          result := .none }

/-! ### Tape: open and close -/

/-- `closeTape` leaves no tape and no outcome; `openTape` with a tape open is `openTape` after that close (44_tape.md R400,
R425; 60_exceptions.md R538). -/
def Obligations.CloseTape : Prop :=
  ∀ (s : State) (a : OpenArgs), ∃ u, exec .closeTape s = .next u ∧ u.tape = none ∧ u.result = .none
    ∧ (∀ t, s.tape = some t → u.stores = (flushInto t s).stores)
    ∧ exec (.openTape a) s = exec (.openTape a) u

/-- `openTape` of a Native tape. Mode Create: the header is written, and the tape has no sample and no cue point. The other
modes: the resolution, the rate and the cue points are the header's, the length the number of samples after it, in 32 bits
(00_scope.md R10; notes/assumptions/14.md), and the cue points `readCueSlots` of the header's slots: those before the first
sentinel, cut at 1019, then the ascending ones, an order that is DEDUCED (notes/assumptions/15.md); no store changes. Every common field has its value at open (44_tape.md R400, R401;
10_state.md R36; 30_encoding.md R160 to R162); that the block buffer lists no sample then is the model's choice
(notes/assumptions/27.md). -/
def Obligations.OpenNative : Prop :=
  (∀ (s : State) (a : OpenArgs), s.tape = none → a.fmt = .native → a.mode = .create → validBits a.requestedBits = true →
     validBits a.fileBits = true → 0 < a.sampleRate → s.noFailure 1 →
     ∃ u, exec (.openTape a) s = .next u ∧ u.result = .none
       ∧ u.tape = some
           { store := a.store, mode := .create, isPlaybackOn := false, isRecordOn := false, isMotorOn := false,
             tapePosition := 0, tapeLength := 0, sampleRate := a.sampleRate, fileBitsPerSample := a.fileBits,
             requestedBitsPerSample := a.requestedBits, inputState := 0, outputState := 0, cuePoints := [],
             cueDirty := false, medium := .native { blockBuf := [], blockIndex := none, blockDirty := false } }
       ∧ (∀ x k, u.byteAt x k =
           if x = a.store ∧ k < 4096
           then ([0x72, 0xCD, 0x75, 0x02, 0x26, 0x51, 0x44, 0x1C] ++ beBytes 4 a.fileBits ++ beBytes 4 a.sampleRate).getD k
             0xFF
           else s.byteAt x k))
  ∧ (∀ (s : State) (a : OpenArgs), s.tape = none → a.fmt = .native → a.mode ≠ .create →
     validBits a.requestedBits = true → 4096 ≤ s.lengthOf a.store → s.noFailure 1 →
     (∀ k, k < 8 → s.byteAt a.store k = [0x72, 0xCD, 0x75, 0x02, 0x26, 0x51, 0x44, 0x1C].getD k 0) →
     let word : Nat → Nat := fun o =>
       (((s.byteAt a.store o).toNat * 256 + (s.byteAt a.store (o + 1)).toNat) * 256
         + (s.byteAt a.store (o + 2)).toNat) * 256 + (s.byteAt a.store (o + 3)).toNat
     validBits (word 8) = true → word 12 ≠ 0 →
     exec (.openTape a) s = .next { s.ioNext with
       tape := some
         { store := a.store, mode := a.mode, isPlaybackOn := false, isRecordOn := false, isMotorOn := false,
           tapePosition := 0, tapeLength := ((s.lengthOf a.store - 4096) * 8 / word 8) % 2 ^ 32,
           sampleRate := word 12, fileBitsPerSample := word 8, requestedBitsPerSample := a.requestedBits,
           inputState := 0, outputState := 0,
           cuePoints := readCueSlots ((List.range 4080).map fun k => s.byteAt a.store (16 + k)), cueDirty := false,
           medium := .native { blockBuf := [], blockIndex := none, blockDirty := false } },
       result := .none })

/-- A Native header read back gives what was written: the file's resolution, the rate and the cue points
(30_encoding.md R160, R161). -/
def Obligations.NativeHeaderRoundTrip : Prop :=
  ∀ (fileBits rate : Nat) (cues : List Nat), validBits fileBits = true → 0 < rate → rate < 2 ^ 32 →
    cues.Pairwise (fun a b => a < b) → cues.length ≤ 1019 → (∀ c ∈ cues, c < 0xFFFFFFFF) →
    (nativeHeader fileBits rate cues).length = 4096
      ∧ parseNativeHeader (nativeHeader fileBits rate cues) = some (fileBits, rate, cues)

/-- Samples packed into bytes and taken out again are the same samples, in either order of packing (20_memory.md R90). -/
def Obligations.PackUnpack : Prop :=
  ∀ (p : SamplePacking) (b : Nat) (vs : List Byte), validBits b = true → (∀ v ∈ vs, v.toNat < 2 ^ b) →
    (packSamples p b vs).length = (vs.length * b + 7) / 8
      ∧ (unpackBytes p b (packSamples p b vs)).take vs.length = vs

/-- `openTape` that fails, in every format: each bad argument, mode, header and failed access with its outcome, no tape open,
and no store changed (44_tape.md R400, R401, R441, R450; 60_exceptions.md R510). The model's own here: the container of a SoundFile tape is
`soundOf` (DESIGN CHOICE, notes/assumptions/11.md); that its failed read is a bad format, its failed creation
`HostIoError(write)`, and a rate 0 or a channel refused before any write (DEDUCED, notes/assumptions/12.md); and that a failed
read of the pulse data of a LegacyTap file is `HostIoError(read)`, which R441 says of the header access only (DESIGN CHOICE,
notes/assumptions/18.md). -/
def Obligations.OpenTapeRefuses : Prop :=
  ∀ (s : State) (a : OpenArgs), s.tape = none →
    let len := s.lengthOf a.store
    let byte := s.byteAt a.store
    let word : Nat → Nat := fun o =>
      (((byte o).toNat * 256 + (byte (o + 1)).toNat) * 256 + (byte (o + 2)).toNat) * 256 + (byte (o + 3)).toNat
    let badNative := (∃ k, k < 8 ∧ byte k ≠ tapeMagic.getD k 0) ∨ validBits (word 8) = false ∨ word 12 = 0
    let badTap := (∃ k, k < 12 ∧ byte k ≠ c16Magic.getD k 0) ∨ byte 12 ≠ 0x01 ∧ byte 12 ≠ 0x02
    ∃ u, exec (.openTape a) s = .next u ∧
      (let fails : IoError → Prop := fun k =>
         u.result = .hostIoError k ∧ u.tape = none ∧ u.stores = s.stores ∧ u.tbm = s.tbm ∧ u.fdc = s.fdc
       (validBits a.requestedBits = false → fails .badFormat)
         ∧ (validBits a.requestedBits = true →
           (a.fmt = .native → a.mode = .create →
               ((a.sampleRate = 0 ∨ validBits a.fileBits = false) → fails .badFormat)
                 ∧ (a.sampleRate ≠ 0 → validBits a.fileBits = true → s.nextFails → fails .write))
           ∧ (a.fmt = .native → a.mode ≠ .create →
               (len < 4096 → fails .badFormat)
                 ∧ (4096 ≤ len → s.nextFails → fails .read)
                 ∧ (4096 ≤ len → s.noFailure 1 → badNative → fails .badFormat))
           ∧ (a.fmt = .legacyTap → a.mode ≠ .readOnly → fails .badMode)
           ∧ (a.fmt = .legacyTap → a.mode = .readOnly →
               (len < 20 → fails .badFormat)
                 ∧ (20 ≤ len → s.nextFails → fails .read)
                 ∧ (20 ≤ len → s.noFailure 1 → badTap → fails .badFormat)
                 ∧ (20 < len → s.noFailure 1 → ¬ badTap → s.ioNext.nextFails → fails .read))
           ∧ (a.fmt = .soundFile → a.mode = .create →
               ((a.sampleRate = 0 ∨ a.channel ≠ 0) → fails .badFormat)
                 ∧ (a.sampleRate ≠ 0 → a.channel = 0 → s.nextFails → fails .write))
           ∧ (a.fmt = .soundFile → a.mode ≠ .create →
               (s.nextFails ∨ soundOf (s.store a.store) = none
                 ∨ ∃ c, soundOf (s.store a.store) = some c ∧ c.nChannels ≤ a.channel) → fails .badFormat)))

/-- `openTape` of a LegacyTap tape whose header is valid: 55420 samples a second, one bit a sample, as many samples as its
half-waves fill, in 32 bits, the cursor at sample 0 (44_tape.md R441, R444; 30_encoding.md R163). Of a SoundFile tape: the
channels, the rate and the length of the container, or in mode Create a mono container with no frame, which is written (R450).
Every common field has its value at open (10_state.md R36). The model's choices here: the wrapped length (notes/assumptions/14.md),
the seek index (16.md), the container (11.md), and the frame buffer that holds nothing while no block is resident (27.md). -/
def Obligations.OpenLegacyTapAndSoundFile : Prop :=
  (∀ (s : State) (a : OpenArgs) (v : TapVersion), s.tape = none → a.fmt = .legacyTap → a.mode = .readOnly →
     validBits a.requestedBits = true → 20 ≤ s.lengthOf a.store →
     s.noFailure (if 20 < s.lengthOf a.store then 2 else 1) →
     (∀ k, k < 12 → s.byteAt a.store k = c16Magic.getD k 0) →
     s.byteAt a.store 12 = (match v with | .old => 0x01 | .new => 0x02) →
     let data := (List.range (s.lengthOf a.store - 20)).map fun k => s.byteAt a.store (20 + k)
     let len := ((halfWaves v data).sum + 15) / 16 % 2 ^ 32
     ∃ u, exec (.openTape a) s = .next u ∧ u.result = .none ∧ u.stores = s.stores ∧ u.tbm = s.tbm ∧ u.fdc = s.fdc
       ∧ u.tape = some
           { store := a.store, mode := .readOnly, isPlaybackOn := false, isRecordOn := false, isMotorOn := false,
             tapePosition := 0, tapeLength := len, sampleRate := 55420, fileBitsPerSample := 1,
             requestedBitsPerSample := a.requestedBits, inputState := 0, outputState := 0, cuePoints := [],
             cueDirty := false,
             medium := .legacyTap
               { version := v, pulseData := data,
                 seekIndex := (List.range (min 2700 ((len + 55419) / 55420))).map fun k =>
                   (20 + (cursorAt v data (55420 * k)).dpos, 55420 * k),
                 cursor := cursorAt v data 0 } })
  ∧ (∀ (s : State) (a : OpenArgs), s.tape = none → a.fmt = .soundFile → validBits a.requestedBits = true →
     s.noFailure 1 →
     let opened : Sound → Tape := fun c =>
       { store := a.store, mode := a.mode, isPlaybackOn := false, isRecordOn := false, isMotorOn := false,
         tapePosition := 0, tapeLength := c.frames.length % 2 ^ 32, sampleRate := c.sampleRate, fileBitsPerSample := 8,
         requestedBitsPerSample := a.requestedBits, inputState := 0, outputState := 0, cuePoints := [],
         cueDirty := false,
         medium := .soundFile
           { channel := a.channel, invert := a.invert, filterOn := a.filterOn, nChannels := c.nChannels, frameBuf := [],
             frameBlockIndex := none, frameBlockDirty := false } }
     (∀ c, a.mode ≠ .create → soundOf (s.store a.store) = some c → a.channel < c.nChannels →
         exec (.openTape a) s = .next { s.ioNext with tape := some (opened c), result := .none })
       ∧ (a.mode = .create → a.sampleRate ≠ 0 → a.channel = 0 →
         let c : Sound := { nChannels := 1, sampleRate := a.sampleRate, frames := [] }
         ∃ u, exec (.openTape a) s = .next u ∧ u.result = .none ∧ u.tbm = s.tbm ∧ u.fdc = s.fdc
           ∧ u.tape = some (opened c) ∧ u.store a.store = .container c
           ∧ ∀ x, x ≠ a.store → u.store x = s.store x))

/-! ### Invariants of the machine -/

/-- Every step keeps every memory of the machine in canonical form within its size (20_memory.md R80, R81, R84), for track
tables the spec admits. -/
def Obligations.MemoryInvariant : Prop :=
  ∀ s t : State, TrackTablesOk s.params → MemoryOk s → step s = .next t → MemoryOk t

/-- Every step keeps the tape invariants: cue points ascending, the position within the tape, record only with play on a
tape that may be written, samples within their resolution, the cursor of a LegacyTap tape at the position (10_state.md R36,
R40; 44_tape.md R440; 60_exceptions.md R535; a length of 2^32 − 1 and its last position: notes/assumptions/14.md). -/
def Obligations.TapeInvariant : Prop := ∀ s t : State, DeckOk s → step s = .next t → DeckOk t

/-- The state after construction has every value of 70_reset_and_hazards.md R600 and meets every invariant stated here. The
values of the default parameters and of the model's own fields (the stores, the pending calls, the result and the draws) are
notes/assumptions/1.md, 5.md to 9.md; that the sector register starts at 0x01, which 10_state.md R30 takes from general
knowledge, is 20.md. -/
def Obligations.ResetOk : Prop :=
  State.reset.tbm =
      { imageFile := none, readOnly := true, hasErrorTable := false, nTracks := 0, currentTrack := 0, gcr := [], d64 := [],
        bad := badAllOk, trackDirtyFlag := false, diskID := 0, idCharacter1 := 0x41, idCharacter2 := 0x41 }
    ∧ (∀ k, badAllOk.read k = if k < 24 then 0x01 else 0) ∧ (∀ a, State.reset.tbm.gcr.read a = 0)
    ∧ (∀ a, State.reset.tbm.d64.read a = 0)
    ∧ State.reset.fdc =
      { commandRegister := 0x00, statusRegister := 0x80, trackRegister := 0x00, sectorRegister := 0x01,
        dataRegister := 0x00, currentTrack := 0, currentSide := 0, buf := [], bufPos := 512, xferOffset := 0,
        dataRequestFlag := false, interruptRequestFlag := false, forceIntPending := false, stepDirIn := true,
        busyHackPhase := false, imageFile := none, readOnly := true, nTracks := 0, nSides := 0, nSectorsPerTrack := 0,
        faulted := false }
    ∧ (∀ k, State.reset.fdc.buf.read k = 0) ∧ State.reset.tape = none ∧ State.reset.params = {}
    ∧ MemoryOk State.reset ∧ ParamsOk State.reset.params ∧ TbmOk State.reset.tbm ∧ FdcTransferOk State.reset.fdc
    ∧ FdcGeometryOk State.reset.fdc ∧ FdcWriteOk State.reset.fdc ∧ FdcHeadOk State.reset.params State.reset.fdc
    ∧ DeckOk State.reset
end

