-- ==== Sys2Proof/Laws/Memory.lean ====
section
/-! SUPPORT. What the memory operations do: reading after writing, the canonical form kept, equal reads of canonical
memories make equal memories. -/

namespace Sys2Proof.Machine

/-! ### Reading -/

theorem Memory.read_of_forall_ne {m : Memory} {a : Nat} (h : ∀ c ∈ m, c.1 ≠ a) : m.read a = 0 := by
  induction m with
  | nil => rfl
  | cons c m ih =>
    rw [Memory.read, if_neg (h c (by simp))]
    exact ih fun d hd => h d (by simp [hd])

theorem Memory.read_append (m n : Memory) (a : Nat) :
    Memory.read (m ++ n) a = if ∃ c ∈ m, c.1 = a then m.read a else n.read a := by
  induction m with
  | nil => simp
  | cons c m ih =>
    rw [List.cons_append, Memory.read, Memory.read]
    by_cases h : c.1 = a
    · rw [if_pos h, if_pos ⟨c, by simp, h⟩]; simp [h]
    · rw [if_neg h, ih]
      simp [h]

theorem Memory.read_filter (m : Memory) (p : Nat → Bool) (a : Nat) :
    Memory.read (m.filter fun c => p c.1) a = if p a then m.read a else 0 := by
  induction m with
  | nil => simp [Memory.read]
  | cons c m ih =>
    by_cases hp : p c.1 = true <;> by_cases ha : c.1 = a
    · subst ha; simp [hp, Memory.read]
    · simp [hp, ha, Memory.read, ih]
    · subst ha; simp [hp, ih]
    · simp [hp, ha, Memory.read, ih]

/-- A zero byte found among the listed cells or not, a read is decided by the cells listed. -/
theorem Memory.read_append_of_not_mem {m n : Memory} {a : Nat} (h : ∀ c ∈ m, c.1 ≠ a) :
    Memory.read (m ++ n) a = n.read a := by
  rw [Memory.read_append, if_neg]
  rintro ⟨c, hc, rfl⟩
  exact h c hc rfl

theorem Memory.read_append_of_not_mem_right {m n : Memory} {a : Nat} (h : ∀ c ∈ n, c.1 ≠ a) :
    Memory.read (m ++ n) a = m.read a := by
  rw [Memory.read_append]
  split
  · rfl
  · rename_i hm
    rw [Memory.read_of_forall_ne h, Memory.read_of_forall_ne]
    intro c hc he
    exact hm ⟨c, hc, he⟩

theorem Memory.cellsAt_bounds {a : Nat} {bs : List Byte} : ∀ c ∈ Memory.cellsAt a bs, a ≤ c.1 ∧ c.1 < a + bs.length := by
  induction bs generalizing a with
  | nil => simp [Memory.cellsAt]
  | cons b bs ih =>
    intro c hc
    rw [Memory.cellsAt] at hc
    have hrec : c ∈ Memory.cellsAt (a + 1) bs → a ≤ c.1 ∧ c.1 < a + (b :: bs).length := by
      intro h
      have := ih c h
      simp only [List.length_cons]
      omega
    split at hc
    · exact hrec hc
    · rcases List.mem_cons.1 hc with rfl | h
      · simp
      · exact hrec h

theorem Memory.read_cellsAt (a x : Nat) (bs : List Byte) :
    (Memory.cellsAt a bs).read x = if a ≤ x then bs.getD (x - a) 0 else 0 := by
  induction bs generalizing a with
  | nil => simp [Memory.cellsAt, Memory.read]
  | cons b bs ih =>
    rcases Nat.lt_trichotomy x a with h | rfl | h
    · rw [if_neg (by omega), Memory.read_of_forall_ne]
      intro c hc
      have := Memory.cellsAt_bounds c hc
      omega
    · rw [Memory.cellsAt]
      split
      · next hb =>
        rw [Memory.read_of_forall_ne]
        · simp [hb]
        · intro c hc
          have := Memory.cellsAt_bounds c hc
          omega
      · simp [Memory.read]
    · rw [if_pos (by omega), Memory.cellsAt]
      obtain ⟨d, rfl⟩ : ∃ d, x = a + 1 + d := ⟨x - (a + 1), by omega⟩
      have hget : (b :: bs).getD (a + 1 + d - a) 0 = bs.getD d 0 := by
        rw [show a + 1 + d - a = d + 1 by omega]; rfl
      have hrest : (Memory.cellsAt (a + 1) bs).read (a + 1 + d) = bs.getD d 0 := by
        rw [ih, if_pos (by omega), show a + 1 + d - (a + 1) = d by omega]
      rw [hget]
      split
      · exact hrest
      · rw [Memory.read, if_neg (by omega)]; exact hrest

/-- A read after a write: the bytes written at their addresses, every other address as before. -/
theorem Memory.read_writeBytes (m : Memory) (a x : Nat) (bs : List Byte) :
    (m.writeBytes a bs).read x = if a ≤ x ∧ x < a + bs.length then bs.getD (x - a) 0 else m.read x := by
  unfold Memory.writeBytes
  by_cases h1 : x < a
  · rw [if_neg (by omega), Memory.read_append_of_not_mem_right, Memory.read_append_of_not_mem_right,
      Memory.read_filter m (fun k => decide (k < a)) x]
    · simp [h1]
    · intro c hc
      have := Memory.cellsAt_bounds c hc
      omega
    · intro c hc
      simp only [List.mem_filter, decide_eq_true_eq] at hc
      omega
  · by_cases h2 : x < a + bs.length
    · rw [if_pos (by omega), Memory.read_append_of_not_mem_right, Memory.read_append_of_not_mem, Memory.read_cellsAt,
        if_pos (by omega)]
      · intro c hc
        simp only [List.mem_filter, decide_eq_true_eq] at hc
        omega
      · intro c hc
        simp only [List.mem_filter, decide_eq_true_eq] at hc
        omega
    · rw [if_neg (by omega), Memory.read_append_of_not_mem,
        Memory.read_filter m (fun k => decide (a + bs.length ≤ k)) x]
      · simp only [decide_eq_true_eq]
        rw [if_pos (by omega)]
      · intro c hc
        rcases List.mem_append.1 hc with hc | hc
        · simp only [List.mem_filter, decide_eq_true_eq] at hc
          omega
        · have := Memory.cellsAt_bounds c hc
          omega

theorem Memory.read_write (m : Memory) (a x : Nat) (v : Byte) :
    (m.write a v).read x = if x = a then v else m.read x := by
  rw [Memory.write, Memory.read_writeBytes]
  by_cases h : x = a
  · subst h; simp
  · rw [if_neg h, if_neg]
    simp only [List.length_singleton]
    omega

@[simp] theorem Memory.readBytes_length (m : Memory) (a n : Nat) : (m.readBytes a n).length = n := by
  simp [Memory.readBytes]

/-- A read of several bytes is the reads of each. -/
theorem Memory.readBytes_eq (m : Memory) (a n : Nat) :
    m.readBytes a n = (List.range n).map fun i => m.read (a + i) := by
  unfold Memory.readBytes
  refine List.map_congr_left fun i hi => ?_
  have hi : i < n := List.mem_range.1 hi
  rw [Memory.read_filter m (fun k => decide (a ≤ k ∧ k < a + n)) (a + i)]
  simp [hi]

@[simp] theorem Memory.read_nil (a : Nat) : Memory.read [] a = 0 := rfl

theorem Memory.getD_readBytes (m : Memory) {a n i : Nat} (h : i < n) : (m.readBytes a n).getD i 0 = m.read (a + i) := by
  rw [Memory.readBytes_eq]
  simp [List.getD, h]

/-- A memory made of bytes reads as the bytes, zero above them. -/
theorem Memory.read_ofBytes (bs : List Byte) (x : Nat) : (Memory.ofBytes bs).read x = bs.getD x 0 := by
  rw [Memory.ofBytes, Memory.read_cellsAt]
  simp

/-! ### The canonical form -/

theorem Memory.cellsAt_wf (a : Nat) (bs : List Byte) : Memory.wf (Memory.cellsAt a bs) := by
  induction bs generalizing a with
  | nil => simp [Memory.cellsAt, Memory.wf]
  | cons b bs ih =>
    rw [Memory.cellsAt]
    split
    · exact ih (a + 1)
    · next hb =>
      refine ⟨List.pairwise_cons.2 ⟨fun c hc => ?_, (ih (a + 1)).1⟩, fun c hc => ?_⟩
      · have := Memory.cellsAt_bounds c hc
        show a < c.1
        omega
      · rcases List.mem_cons.1 hc with rfl | h
        · exact hb
        · exact (ih (a + 1)).2 c h

/-- Every write keeps the canonical form. -/
theorem Memory.writeBytes_wf {m : Memory} (h : m.wf) (a : Nat) (bs : List Byte) : (m.writeBytes a bs).wf := by
  obtain ⟨hs, hz⟩ := h
  have hc := Memory.cellsAt_wf a bs
  refine ⟨?_, ?_⟩
  · unfold Memory.writeBytes
    rw [List.pairwise_append, List.pairwise_append]
    refine ⟨⟨hs.filter _, hc.1, fun x hx y hy => ?_⟩, hs.filter _, fun x hx y hy => ?_⟩
    · simp only [List.mem_filter, decide_eq_true_eq] at hx
      have := Memory.cellsAt_bounds y hy
      omega
    · simp only [List.mem_filter, decide_eq_true_eq] at hy
      rcases List.mem_append.1 hx with hx | hx
      · simp only [List.mem_filter, decide_eq_true_eq] at hx
        omega
      · have := Memory.cellsAt_bounds x hx
        omega
  · intro c hcm
    unfold Memory.writeBytes at hcm
    rcases List.mem_append.1 hcm with hcm | hcm
    · rcases List.mem_append.1 hcm with hcm | hcm
      · exact hz c (List.mem_of_mem_filter hcm)
      · exact hc.2 c hcm
    · exact hz c (List.mem_of_mem_filter hcm)

theorem Memory.write_wf {m : Memory} (h : m.wf) (a : Nat) (v : Byte) : (m.write a v).wf := Memory.writeBytes_wf h a [v]

theorem Memory.ofBytes_wf (bs : List Byte) : (Memory.ofBytes bs).wf := Memory.cellsAt_wf 0 bs

/-- A write below `n` keeps every listed address below `n`. -/
theorem Memory.writeBytes_below {m : Memory} {n a : Nat} {bs : List Byte} (h : m.below n) (hb : a + bs.length ≤ n) :
    (m.writeBytes a bs).below n := by
  intro c hc
  unfold Memory.writeBytes at hc
  rcases List.mem_append.1 hc with hc | hc
  · rcases List.mem_append.1 hc with hc | hc
    · exact h c (List.mem_of_mem_filter hc)
    · have := Memory.cellsAt_bounds c hc
      omega
  · exact h c (List.mem_of_mem_filter hc)

theorem Memory.write_below {m : Memory} {n a : Nat} (h : m.below n) (ha : a < n) (v : Byte) : (m.write a v).below n :=
  Memory.writeBytes_below h (by simpa using ha)

theorem Memory.ofBytes_below {n : Nat} {bs : List Byte} (h : bs.length ≤ n) : (Memory.ofBytes bs).below n := by
  intro c hc
  have := Memory.cellsAt_bounds c hc
  omega

/-- A canonical memory lists exactly the addresses that do not read as zero. -/
theorem Memory.mem_iff_read {m : Memory} (h : m.wf) (a : Nat) (v : Byte) :
    (a, v) ∈ m ↔ m.read a = v ∧ v ≠ 0 := by
  induction m with
  | nil => simp [Memory.read]; intro h; exact h.symm
  | cons c m ih =>
    obtain ⟨hs, hz⟩ := h
    rw [List.pairwise_cons] at hs
    have hw : Memory.wf m := ⟨hs.2, fun d hd => hz d (by simp [hd])⟩
    have ih := ih hw
    by_cases hca : c.1 = a
    · subst hca
      have hn : ∀ w, (c.1, w) ∉ m := fun w hw => Nat.lt_irrefl _ (hs.1 (c.1, w) hw)
      obtain ⟨k, w⟩ := c
      have hw0 : w ≠ 0 := hz (k, w) (by simp)
      simp only [List.mem_cons, Prod.mk.injEq, true_and, Memory.read, if_true]
      constructor
      · rintro (rfl | h)
        · exact ⟨rfl, hw0⟩
        · exact absurd h (hn v)
      · rintro ⟨rfl, -⟩
        exact .inl rfl
    · obtain ⟨k, w⟩ := c
      have hka : ¬ k = a := hca
      have hak : ¬ a = k := fun h => hka h.symm
      simp [Memory.read, hka, hak, ih]

/-- Canonical memories that read the same are the same data. -/
theorem Memory.ext_read {m n : Memory} (hm : m.wf) (hn : n.wf) (h : ∀ a, m.read a = n.read a) : m = n := by
  have hmem : ∀ c, c ∈ m ↔ c ∈ n := fun c => by
    rw [show c = (c.1, c.2) from rfl, Memory.mem_iff_read hm, Memory.mem_iff_read hn, h]
  have nodup : ∀ {l : Memory}, l.wf → l.Nodup := fun {l} hl => by
    refine List.Pairwise.imp (fun {a b} hlt heq => ?_) hl.1
    subst heq
    exact Nat.lt_irrefl _ hlt
  have hp : m.Perm n := (List.perm_ext_iff_of_nodup (nodup hm) (nodup hn)).2 hmem
  exact hp.eq_of_pairwise (fun a b _ _ hab hba => absurd hab (by omega)) hm.1 hn.1

end Sys2Proof.Machine
end

