-- ==== Sys2Proof/Laws/State.lean ====
section
/-! SUPPORT. One lemma per field per update of the state, so that no later proof unfolds a record update. -/

namespace Sys2Proof.Machine

/-! ### `State.setTbm` -/

@[simp] theorem State.setTbm_params (s : State) (t : Tbm) : (s.setTbm t).params = s.params := rfl
@[simp] theorem State.setTbm_tbm (s : State) (t : Tbm) : (s.setTbm t).tbm = t := rfl
@[simp] theorem State.setTbm_fdc (s : State) (t : Tbm) : (s.setTbm t).fdc = s.fdc := rfl
@[simp] theorem State.setTbm_tape (s : State) (t : Tbm) : (s.setTbm t).tape = s.tape := rfl
@[simp] theorem State.setTbm_stores (s : State) (t : Tbm) : (s.setTbm t).stores = s.stores := rfl
@[simp] theorem State.setTbm_calls (s : State) (t : Tbm) : (s.setTbm t).calls = s.calls := rfl
@[simp] theorem State.setTbm_result (s : State) (t : Tbm) : (s.setTbm t).result = s.result := rfl
@[simp] theorem State.setTbm_ioScript (s : State) (t : Tbm) : (s.setTbm t).ioScript = s.ioScript := rfl
@[simp] theorem State.setTbm_ioCount (s : State) (t : Tbm) : (s.setTbm t).ioCount = s.ioCount := rfl
@[simp] theorem State.setTbm_indexDraws (s : State) (t : Tbm) : (s.setTbm t).indexDraws = s.indexDraws := rfl

/-! ### `State.setFdc` -/

@[simp] theorem State.setFdc_params (s : State) (f : Fdc) : (s.setFdc f).params = s.params := rfl
@[simp] theorem State.setFdc_tbm (s : State) (f : Fdc) : (s.setFdc f).tbm = s.tbm := rfl
@[simp] theorem State.setFdc_fdc (s : State) (f : Fdc) : (s.setFdc f).fdc = f := rfl
@[simp] theorem State.setFdc_tape (s : State) (f : Fdc) : (s.setFdc f).tape = s.tape := rfl
@[simp] theorem State.setFdc_stores (s : State) (f : Fdc) : (s.setFdc f).stores = s.stores := rfl
@[simp] theorem State.setFdc_calls (s : State) (f : Fdc) : (s.setFdc f).calls = s.calls := rfl
@[simp] theorem State.setFdc_result (s : State) (f : Fdc) : (s.setFdc f).result = s.result := rfl
@[simp] theorem State.setFdc_ioScript (s : State) (f : Fdc) : (s.setFdc f).ioScript = s.ioScript := rfl
@[simp] theorem State.setFdc_ioCount (s : State) (f : Fdc) : (s.setFdc f).ioCount = s.ioCount := rfl
@[simp] theorem State.setFdc_indexDraws (s : State) (f : Fdc) : (s.setFdc f).indexDraws = s.indexDraws := rfl

/-! ### `State.setTape` -/

@[simp] theorem State.setTape_params (s : State) (t : Option Tape) : (s.setTape t).params = s.params := rfl
@[simp] theorem State.setTape_tbm (s : State) (t : Option Tape) : (s.setTape t).tbm = s.tbm := rfl
@[simp] theorem State.setTape_fdc (s : State) (t : Option Tape) : (s.setTape t).fdc = s.fdc := rfl
@[simp] theorem State.setTape_tape (s : State) (t : Option Tape) : (s.setTape t).tape = t := rfl
@[simp] theorem State.setTape_stores (s : State) (t : Option Tape) : (s.setTape t).stores = s.stores := rfl
@[simp] theorem State.setTape_calls (s : State) (t : Option Tape) : (s.setTape t).calls = s.calls := rfl
@[simp] theorem State.setTape_result (s : State) (t : Option Tape) : (s.setTape t).result = s.result := rfl
@[simp] theorem State.setTape_ioScript (s : State) (t : Option Tape) : (s.setTape t).ioScript = s.ioScript := rfl
@[simp] theorem State.setTape_ioCount (s : State) (t : Option Tape) : (s.setTape t).ioCount = s.ioCount := rfl
@[simp] theorem State.setTape_indexDraws (s : State) (t : Option Tape) : (s.setTape t).indexDraws = s.indexDraws := rfl

/-! ### `State.setStores` -/

@[simp] theorem State.setStores_params (s : State) (m : List (Nat × Store)) : (s.setStores m).params = s.params := rfl
@[simp] theorem State.setStores_tbm (s : State) (m : List (Nat × Store)) : (s.setStores m).tbm = s.tbm := rfl
@[simp] theorem State.setStores_fdc (s : State) (m : List (Nat × Store)) : (s.setStores m).fdc = s.fdc := rfl
@[simp] theorem State.setStores_tape (s : State) (m : List (Nat × Store)) : (s.setStores m).tape = s.tape := rfl
@[simp] theorem State.setStores_stores (s : State) (m : List (Nat × Store)) : (s.setStores m).stores = m := rfl
@[simp] theorem State.setStores_calls (s : State) (m : List (Nat × Store)) : (s.setStores m).calls = s.calls := rfl
@[simp] theorem State.setStores_result (s : State) (m : List (Nat × Store)) : (s.setStores m).result = s.result := rfl
@[simp] theorem State.setStores_ioScript (s : State) (m : List (Nat × Store)) : (s.setStores m).ioScript = s.ioScript := rfl
@[simp] theorem State.setStores_ioCount (s : State) (m : List (Nat × Store)) : (s.setStores m).ioCount = s.ioCount := rfl
@[simp] theorem State.setStores_indexDraws (s : State) (m : List (Nat × Store)) : (s.setStores m).indexDraws = s.indexDraws := rfl

/-! ### `State.setResult` -/

@[simp] theorem State.setResult_params (s : State) (r : Result) : (s.setResult r).params = s.params := rfl
@[simp] theorem State.setResult_tbm (s : State) (r : Result) : (s.setResult r).tbm = s.tbm := rfl
@[simp] theorem State.setResult_fdc (s : State) (r : Result) : (s.setResult r).fdc = s.fdc := rfl
@[simp] theorem State.setResult_tape (s : State) (r : Result) : (s.setResult r).tape = s.tape := rfl
@[simp] theorem State.setResult_stores (s : State) (r : Result) : (s.setResult r).stores = s.stores := rfl
@[simp] theorem State.setResult_calls (s : State) (r : Result) : (s.setResult r).calls = s.calls := rfl
@[simp] theorem State.setResult_result (s : State) (r : Result) : (s.setResult r).result = r := rfl
@[simp] theorem State.setResult_ioScript (s : State) (r : Result) : (s.setResult r).ioScript = s.ioScript := rfl
@[simp] theorem State.setResult_ioCount (s : State) (r : Result) : (s.setResult r).ioCount = s.ioCount := rfl
@[simp] theorem State.setResult_indexDraws (s : State) (r : Result) : (s.setResult r).indexDraws = s.indexDraws := rfl

/-! ### `State.returns` -/

@[simp] theorem State.returns_params (s : State) (r : Result) : (s.returns r).params = s.params := rfl
@[simp] theorem State.returns_tbm (s : State) (r : Result) : (s.returns r).tbm = s.tbm := rfl
@[simp] theorem State.returns_fdc (s : State) (r : Result) : (s.returns r).fdc = s.fdc := rfl
@[simp] theorem State.returns_tape (s : State) (r : Result) : (s.returns r).tape = s.tape := rfl
@[simp] theorem State.returns_stores (s : State) (r : Result) : (s.returns r).stores = s.stores := rfl
@[simp] theorem State.returns_calls (s : State) (r : Result) : (s.returns r).calls = s.calls := rfl
@[simp] theorem State.returns_result (s : State) (r : Result) : (s.returns r).result = r := rfl
@[simp] theorem State.returns_ioScript (s : State) (r : Result) : (s.returns r).ioScript = s.ioScript := rfl
@[simp] theorem State.returns_ioCount (s : State) (r : Result) : (s.returns r).ioCount = s.ioCount := rfl
@[simp] theorem State.returns_indexDraws (s : State) (r : Result) : (s.returns r).indexDraws = s.indexDraws := rfl

/-! ### `State.raise` -/

@[simp] theorem State.raise_params (s : State) (k : IoError) : (s.raise k).params = s.params := rfl
@[simp] theorem State.raise_tbm (s : State) (k : IoError) : (s.raise k).tbm = s.tbm := rfl
@[simp] theorem State.raise_fdc (s : State) (k : IoError) : (s.raise k).fdc = s.fdc := rfl
@[simp] theorem State.raise_tape (s : State) (k : IoError) : (s.raise k).tape = s.tape := rfl
@[simp] theorem State.raise_stores (s : State) (k : IoError) : (s.raise k).stores = s.stores := rfl
@[simp] theorem State.raise_calls (s : State) (k : IoError) : (s.raise k).calls = s.calls := rfl
@[simp] theorem State.raise_result (s : State) (k : IoError) : (s.raise k).result = .hostIoError k := rfl
@[simp] theorem State.raise_ioScript (s : State) (k : IoError) : (s.raise k).ioScript = s.ioScript := rfl
@[simp] theorem State.raise_ioCount (s : State) (k : IoError) : (s.raise k).ioCount = s.ioCount := rfl
@[simp] theorem State.raise_indexDraws (s : State) (k : IoError) : (s.raise k).indexDraws = s.indexDraws := rfl

/-! ### `State.putStore` -/

@[simp] theorem State.putStore_params (s : State) (id : Nat) (st : Store) : (s.putStore id st).params = s.params := rfl
@[simp] theorem State.putStore_tbm (s : State) (id : Nat) (st : Store) : (s.putStore id st).tbm = s.tbm := rfl
@[simp] theorem State.putStore_fdc (s : State) (id : Nat) (st : Store) : (s.putStore id st).fdc = s.fdc := rfl
@[simp] theorem State.putStore_tape (s : State) (id : Nat) (st : Store) : (s.putStore id st).tape = s.tape := rfl
@[simp] theorem State.putStore_stores (s : State) (id : Nat) (st : Store) : (s.putStore id st).stores = updateStore s.stores id st := rfl
@[simp] theorem State.putStore_calls (s : State) (id : Nat) (st : Store) : (s.putStore id st).calls = s.calls := rfl
@[simp] theorem State.putStore_result (s : State) (id : Nat) (st : Store) : (s.putStore id st).result = s.result := rfl
@[simp] theorem State.putStore_ioScript (s : State) (id : Nat) (st : Store) : (s.putStore id st).ioScript = s.ioScript := rfl
@[simp] theorem State.putStore_ioCount (s : State) (id : Nat) (st : Store) : (s.putStore id st).ioCount = s.ioCount := rfl
@[simp] theorem State.putStore_indexDraws (s : State) (id : Nat) (st : Store) : (s.putStore id st).indexDraws = s.indexDraws := rfl

/-! ### `State.withTape` -/

@[simp] theorem State.withTape_params (s : State) (t : Tape) (r : Result) : (s.withTape t r).params = s.params := rfl
@[simp] theorem State.withTape_tbm (s : State) (t : Tape) (r : Result) : (s.withTape t r).tbm = s.tbm := rfl
@[simp] theorem State.withTape_fdc (s : State) (t : Tape) (r : Result) : (s.withTape t r).fdc = s.fdc := rfl
@[simp] theorem State.withTape_tape (s : State) (t : Tape) (r : Result) : (s.withTape t r).tape = some t := rfl
@[simp] theorem State.withTape_stores (s : State) (t : Tape) (r : Result) : (s.withTape t r).stores = s.stores := rfl
@[simp] theorem State.withTape_calls (s : State) (t : Tape) (r : Result) : (s.withTape t r).calls = s.calls := rfl
@[simp] theorem State.withTape_result (s : State) (t : Tape) (r : Result) : (s.withTape t r).result = r := rfl
@[simp] theorem State.withTape_ioScript (s : State) (t : Tape) (r : Result) : (s.withTape t r).ioScript = s.ioScript := rfl
@[simp] theorem State.withTape_ioCount (s : State) (t : Tape) (r : Result) : (s.withTape t r).ioCount = s.ioCount := rfl
@[simp] theorem State.withTape_indexDraws (s : State) (t : Tape) (r : Result) : (s.withTape t r).indexDraws = s.indexDraws := rfl

/-! ### `State.ioNext` -/

@[simp] theorem State.ioNext_params (s : State) : s.ioNext.params = s.params := by
  unfold State.ioNext
  split <;> rfl
@[simp] theorem State.ioNext_tbm (s : State) : s.ioNext.tbm = s.tbm := by
  unfold State.ioNext
  split <;> rfl
@[simp] theorem State.ioNext_fdc (s : State) : s.ioNext.fdc = s.fdc := by
  unfold State.ioNext
  split <;> rfl
@[simp] theorem State.ioNext_tape (s : State) : s.ioNext.tape = s.tape := by
  unfold State.ioNext
  split <;> rfl
@[simp] theorem State.ioNext_stores (s : State) : s.ioNext.stores = s.stores := by
  unfold State.ioNext
  split <;> rfl
@[simp] theorem State.ioNext_calls (s : State) : s.ioNext.calls = s.calls := by
  unfold State.ioNext
  split <;> rfl
@[simp] theorem State.ioNext_result (s : State) : s.ioNext.result = s.result := by
  unfold State.ioNext
  split <;> rfl
@[simp] theorem State.ioNext_indexDraws (s : State) : s.ioNext.indexDraws = s.indexDraws := by
  unfold State.ioNext
  split <;> rfl

/-! ### `State.indexNext` -/

@[simp] theorem State.indexNext_params (s : State) : s.indexNext.params = s.params := by
  unfold State.indexNext
  split <;> rfl
@[simp] theorem State.indexNext_tbm (s : State) : s.indexNext.tbm = s.tbm := by
  unfold State.indexNext
  split <;> rfl
@[simp] theorem State.indexNext_fdc (s : State) : s.indexNext.fdc = s.fdc := by
  unfold State.indexNext
  split <;> rfl
@[simp] theorem State.indexNext_tape (s : State) : s.indexNext.tape = s.tape := by
  unfold State.indexNext
  split <;> rfl
@[simp] theorem State.indexNext_stores (s : State) : s.indexNext.stores = s.stores := by
  unfold State.indexNext
  split <;> rfl
@[simp] theorem State.indexNext_calls (s : State) : s.indexNext.calls = s.calls := by
  unfold State.indexNext
  split <;> rfl
@[simp] theorem State.indexNext_result (s : State) : s.indexNext.result = s.result := by
  unfold State.indexNext
  split <;> rfl
@[simp] theorem State.indexNext_ioScript (s : State) : s.indexNext.ioScript = s.ioScript := by
  unfold State.indexNext
  split <;> rfl
@[simp] theorem State.indexNext_ioCount (s : State) : s.indexNext.ioCount = s.ioCount := by
  unfold State.indexNext
  split <;> rfl

/-! ### What an update does to the draws and to the stores -/

@[simp] theorem State.setTbm_store (s : State) (t : Tbm) (id : Nat) : (s.setTbm t).store id = s.store id := rfl
@[simp] theorem State.setFdc_store (s : State) (f : Fdc) (id : Nat) : (s.setFdc f).store id = s.store id := rfl
@[simp] theorem State.setTape_store (s : State) (t : Option Tape) (id : Nat) : (s.setTape t).store id = s.store id := rfl
@[simp] theorem State.returns_store (s : State) (r : Result) (id : Nat) : (s.returns r).store id = s.store id := rfl
@[simp] theorem State.raise_store (s : State) (k : IoError) (id : Nat) : (s.raise k).store id = s.store id := rfl
@[simp] theorem State.ioNext_store (s : State) (id : Nat) : s.ioNext.store id = s.store id := by simp [State.store]
@[simp] theorem State.indexNext_store (s : State) (id : Nat) : s.indexNext.store id = s.store id := by simp [State.store]
@[simp] theorem State.setTbm_ioFails (s : State) (t : Tbm) : (s.setTbm t).ioFails = s.ioFails := rfl
@[simp] theorem State.setFdc_ioFails (s : State) (f : Fdc) : (s.setFdc f).ioFails = s.ioFails := rfl
@[simp] theorem State.setTape_ioFails (s : State) (t : Option Tape) : (s.setTape t).ioFails = s.ioFails := rfl
@[simp] theorem State.returns_ioFails (s : State) (r : Result) : (s.returns r).ioFails = s.ioFails := rfl
@[simp] theorem State.putStore_ioFails (s : State) (id : Nat) (st : Store) : (s.putStore id st).ioFails = s.ioFails := rfl

end Sys2Proof.Machine
end

