-- ==== Sys2Proof/Laws/Ops.lean ====
section
/-! SUPPORT. What each shared operation can do, said once: store accesses, the host's files, the command write, the
track buffer's load and write-back, and the tape's block residency. -/

namespace Sys2Proof.Machine

/-! ### Stores -/

theorem lookupStore_of_forall_ne {m : List (Nat × Store)} {id : Nat} (h : ∀ c ∈ m, c.1 ≠ id) :
    lookupStore m id = Store.empty := by
  induction m with
  | nil => rfl
  | cons c m ih =>
    obtain ⟨k, st⟩ := c
    rw [lookupStore, if_neg (h (k, st) (by simp))]
    exact ih fun d hd => h d (by simp [hd])

theorem lookupStore_append (m n : List (Nat × Store)) (id : Nat) :
    lookupStore (m ++ n) id = if ∃ c ∈ m, c.1 = id then lookupStore m id else lookupStore n id := by
  induction m with
  | nil => simp
  | cons c m ih =>
    obtain ⟨k, st⟩ := c
    by_cases h : k = id
    · subst h; simp [lookupStore]
    · rw [List.cons_append, lookupStore, lookupStore, if_neg h, if_neg h, ih]
      have hiff : (∃ c ∈ (k, st) :: m, c.1 = id) ↔ ∃ c ∈ m, c.1 = id := by simp [h]
      simp only [hiff]

theorem lookupStore_filter (m : List (Nat × Store)) (p : Nat → Bool) (id : Nat) :
    lookupStore (m.filter fun c => p c.1) id = if p id then lookupStore m id else Store.empty := by
  induction m with
  | nil => simp [lookupStore]
  | cons c m ih =>
    obtain ⟨k, st⟩ := c
    by_cases hp : p k = true <;> by_cases hk : k = id
    · subst hk; simp [hp, lookupStore]
    · simp [hp, hk, lookupStore, ih]
    · subst hk; simp [hp, ih]
    · simp [hp, hk, lookupStore, ih]

theorem lookupStore_updateStore (m : List (Nat × Store)) (id x : Nat) (st : Store) :
    lookupStore (updateStore m id st) x = if x = id then st else lookupStore m x := by
  have hlo : ∀ c ∈ m.filter (fun c => decide (c.1 < id)), c.1 < id := fun c hc => by
    simpa using List.of_mem_filter hc
  have hhi : ∀ c ∈ m.filter (fun c => decide (id < c.1)), id < c.1 := fun c hc => by
    simpa using List.of_mem_filter hc
  unfold updateStore
  rw [lookupStore_append, lookupStore_append, lookupStore_filter m (fun k => decide (k < id)) x,
    lookupStore_filter m (fun k => decide (id < k)) x]
  by_cases hx : x = id
  · subst hx
    by_cases hst : st = Store.empty
    · subst hst
      rw [if_neg]
      · simp
      · rintro ⟨c, hc, rfl⟩
        rw [if_pos rfl, List.append_nil] at hc
        exact Nat.lt_irrefl _ (hlo c hc)
    · rw [if_pos ⟨(x, st), by simp [hst], rfl⟩, if_neg]
      · simp [hst, lookupStore]
      · rintro ⟨c, hc, rfl⟩
        exact Nat.lt_irrefl _ (hlo c hc)
  · rw [if_neg hx]
    have hmid : ∀ c ∈ (if st = Store.empty then [] else [(id, st)]), c.1 ≠ x := by
      intro c hc
      split at hc
      · simp at hc
      · simp only [List.mem_singleton] at hc
        subst hc
        exact fun h => hx h.symm
    by_cases hlt : x < id
    · have hnot : ¬ id < x := by omega
      simp only [hlt, hnot, decide_true, decide_false, if_true, if_false, Bool.false_eq_true]
      by_cases hm : ∃ c ∈ m, c.1 = x
      · obtain ⟨c, hc, rfl⟩ := hm
        rw [if_pos ⟨c, List.mem_append.2 (.inl (List.mem_filter.2 ⟨hc, by simpa using hlt⟩)), rfl⟩,
          if_pos ⟨c, List.mem_filter.2 ⟨hc, by simpa using hlt⟩, rfl⟩]
      · have he : lookupStore m x = Store.empty := lookupStore_of_forall_ne fun c hc h => hm ⟨c, hc, h⟩
        rw [lookupStore_of_forall_ne hmid, he]
        simp
    · have hgt : id < x := by omega
      simp only [hlt, hgt, decide_true, decide_false, if_true, if_false, Bool.false_eq_true]
      rw [if_neg]
      rintro ⟨c, hc, rfl⟩
      rcases List.mem_append.1 hc with hc | hc
      · exact hlt (hlo c hc)
      · exact hmid c hc rfl

/-- What a store holds after one store is replaced. -/
@[simp] theorem State.putStore_store (s : State) (id x : Nat) (st : Store) :
    (s.putStore id st).store x = if x = id then st else s.store x :=
  lookupStore_updateStore s.stores id x st

/-- Replacing a store keeps the host's files in canonical form. -/
theorem updateStore_canonical {m : List (Nat × Store)} (h : storesCanonical m) (id : Nat) {st : Store}
    (hst : st.canonical) : storesCanonical (updateStore m id st) := by
  obtain ⟨hs, hc⟩ := h
  have hmid : ∀ c ∈ (if st = Store.empty then [] else [(id, st)]), c = (id, st) ∧ st ≠ Store.empty := by
    intro c hc
    split at hc
    · simp at hc
    · next hne => exact ⟨by simpa using hc, hne⟩
  refine ⟨?_, ?_⟩
  · unfold updateStore
    rw [List.pairwise_append, List.pairwise_append]
    refine ⟨⟨hs.filter _, ?_, fun x hx y hy => ?_⟩, hs.filter _, fun x hx y hy => ?_⟩
    · split <;> simp
    · have hx : x.1 < id := by simpa using List.of_mem_filter hx
      rw [(hmid y hy).1]
      exact hx
    · have hy : id < y.1 := by simpa using List.of_mem_filter hy
      rcases List.mem_append.1 hx with hx | hx
      · have hx : x.1 < id := by simpa using List.of_mem_filter hx
        omega
      · rw [(hmid x hx).1]
        exact hy
  · intro c hcm
    unfold updateStore at hcm
    rcases List.mem_append.1 hcm with hcm | hcm
    · rcases List.mem_append.1 hcm with hcm | hcm
      · exact hc c (List.mem_of_mem_filter hcm)
      · rw [(hmid c hcm).1]
        exact ⟨(hmid c hcm).2, hst⟩
    · exact hc c (List.mem_of_mem_filter hcm)

/-- The bytes of a store in canonical form are. -/
theorem Store.image_canonical {st : Store} (h : st.canonical) : st.image.2.canonical st.length := by
  cases st with
  | bytes len cells => exact h
  | container c => exact ⟨Memory.ofBytes_wf _, Memory.ofBytes_below (Nat.le_refl _)⟩

/-- A store write keeps the canonical form, whatever it held. -/
theorem Store.write_canonical {st : Store} (h : st.canonical) (off : Nat) (bs : List Byte) :
    (st.write off bs).canonical := by
  obtain ⟨hw, hb⟩ := Store.image_canonical h
  refine ⟨Memory.writeBytes_wf hw off bs, Memory.writeBytes_below ?_ (Nat.le_max_right _ _)⟩
  exact fun c hc => Nat.lt_of_lt_of_le (hb c hc) (Nat.le_max_left _ _)

@[simp] theorem Store.write_length (st : Store) (off : Nat) (bs : List Byte) :
    (st.write off bs).length = max st.length (off + bs.length) := rfl

/-- A byte of a store after a write. -/
theorem Store.read_write (st : Store) (off : Nat) (bs : List Byte) (a : Nat) :
    (st.write off bs).image.2.read a = if off ≤ a ∧ a < off + bs.length then bs.getD (a - off) 0 else st.image.2.read a :=
  Memory.read_writeBytes _ _ _ _

/-! ### Store accesses -/

/-- Everything a store read can do: it changes only the oracle's draws, and gives the bytes when it gives any. -/
theorem memRead_cases (id off n : Nat) (s : State) :
    memRead id off n s = (.short, s) ∧ s.lengthOf id < off + n
      ∨ off + n ≤ s.lengthOf id ∧ s.ioFails = true ∧ memRead id off n s = (.ioerr, s.ioNext)
      ∨ off + n ≤ s.lengthOf id ∧ s.ioFails = false
          ∧ memRead id off n s = (.ok ((s.store id).image.2.readBytes off n), s.ioNext) := by
  unfold memRead State.lengthOf
  split
  · exact .inl ⟨rfl, ‹_›⟩
  · split
    · exact .inr (.inl ⟨by omega, ‹_›, rfl⟩)
    · exact .inr (.inr ⟨by omega, Bool.eq_false_iff.2 ‹_›, rfl⟩)

/-- Everything a store write can do: fail and change no store, or write its bytes to the one store. -/
theorem memWrite_cases (id off : Nat) (bs : List Byte) (s : State) :
    s.ioFails = true ∧ memWrite id off bs s = (true, s.ioNext)
      ∨ s.ioFails = false ∧ memWrite id off bs s = (false, s.ioNext.putStore id ((s.store id).write off bs)) := by
  unfold memWrite
  split
  · exact .inl ⟨‹_›, rfl⟩
  · exact .inr ⟨Bool.eq_false_iff.2 ‹_›, rfl⟩

/-- Everything the write of a container can do. -/
theorem putSound_cases (id : Nat) (c : Sound) (s : State) :
    s.ioFails = true ∧ putSound id c s = (true, s.ioNext)
      ∨ s.ioFails = false ∧ putSound id c s = (false, s.ioNext.putStore id (.container c)) := by
  unfold putSound
  split
  · exact .inl ⟨‹_›, rfl⟩
  · exact .inr ⟨Bool.eq_false_iff.2 ‹_›, rfl⟩

theorem State.noFailure_ioFails {s : State} {n : Nat} (h : s.noFailure (n + 1)) : s.ioFails = false := h.1

theorem State.noFailure_ioNext {s : State} {n : Nat} (h : s.noFailure (n + 1)) : s.ioNext.noFailure n := h.2

@[simp] theorem State.noFailure_zero (s : State) : s.noFailure 0 := trivial

/-- Fewer accesses than are known to be good are good. -/
theorem State.noFailure_mono {s : State} {m n : Nat} (h : s.noFailure n) (hm : m ≤ n) : s.noFailure m := by
  induction n generalizing s m with
  | zero => obtain rfl : m = 0 := by omega
            trivial
  | succ n ih =>
    cases m with
    | zero => trivial
    | succ m => exact ⟨h.1, ih h.2 (by omega)⟩

/-- A store write that fails changes no store; one that does not puts its bytes there. -/
theorem memWrite_of_fails {s : State} (h : s.nextFails) (id off : Nat) (bs : List Byte) :
    memWrite id off bs s = (true, s.ioNext) := if_pos h

theorem memWrite_of_noFailure {s : State} {n : Nat} (h : s.noFailure (n + 1)) (id off : Nat) (bs : List Byte) :
    memWrite id off bs s = (false, s.ioNext.putStore id ((s.store id).write off bs)) := by
  unfold memWrite
  rw [if_neg (by rw [h.1]; exact Bool.false_ne_true)]

/-! ### The end of a transfer -/

/-- Everything `flushPartial` can do: the buffer padded and, as the draw is, the sector stored or status bit 5 set. -/
theorem flushPartial_cases {s : State} {id : Nat} (hi : s.fdc.imageFile = some id) :
    s.ioFails = true
        ∧ flushPartial s = s.ioNext.setFdc
            { s.fdc.padded with statusRegister := s.fdc.statusRegister ||| stBit5 }
      ∨ s.ioFails = false
        ∧ flushPartial s = (s.ioNext.setFdc s.fdc.padded).putStore id
            ((s.store id).write s.fdc.xferOffset (s.fdc.padded.buf.readBytes 0 fdcSector)) := by
  unfold flushPartial imageWrite
  rw [show s.fdc.padded.imageFile = some id from hi]
  have hf : (s.setFdc s.fdc.padded).ioFails = s.ioFails := rfl
  have hn : (s.setFdc s.fdc.padded).ioNext = s.ioNext.setFdc s.fdc.padded := by
    unfold State.ioNext
    cases s with
    | mk _ _ _ _ _ _ _ script _ _ => cases script <;> rfl
  dsimp only [memWrite]
  rw [hf, hn]
  cases h : s.ioFails with
  | true => exact .inl ⟨rfl, rfl⟩
  | false => exact .inr ⟨rfl, rfl⟩

/-! ### Searching -/

/-- What a search finds: the first number of its range that the test accepts, or nothing when none is. -/
theorem findFrom_some {p : Nat → Bool} {a n k : Nat} (h : findFrom p a n = some k) :
    a ≤ k ∧ k < a + n ∧ p k = true ∧ ∀ j, a ≤ j → j < k → p j = false := by
  induction n generalizing a with
  | zero => simp [findFrom] at h
  | succ n ih =>
    rw [findFrom] at h
    split at h
    · next hp =>
      obtain rfl : a = k := by simpa using h
      exact ⟨Nat.le_refl _, by omega, hp, fun j h1 h2 => absurd h1 (by omega)⟩
    · next hp =>
      obtain ⟨h1, h2, h3, h4⟩ := ih h
      refine ⟨by omega, by omega, h3, fun j hj hjk => ?_⟩
      rcases Nat.eq_or_lt_of_le hj with rfl | hlt
      · simpa using hp
      · exact h4 j (by omega) hjk

theorem findFrom_none {p : Nat → Bool} {a n : Nat} (h : findFrom p a n = none) :
    ∀ j, a ≤ j → j < a + n → p j = false := by
  induction n generalizing a with
  | zero => intro j h1 h2; omega
  | succ n ih =>
    rw [findFrom] at h
    split at h
    · simp at h
    · next hp =>
      intro j h1 h2
      rcases Nat.eq_or_lt_of_le h1 with rfl | hlt
      · simpa using hp
      · exact ih h j (by omega) (by omega)

/-! ### The command write -/

/-- A command other than FORCE INTERRUPT with no transfer running is loaded and executed. -/
theorem acceptCommand_idle {c : Byte} {body : State → State} {s : State} (h : fdcSector ≤ s.fdc.bufPos) :
    acceptCommand c body s = body (loadCommand c s) := by
  unfold acceptCommand
  rw [if_neg (by omega)]

/-- During a transfer, with `CMD_WHILE_BUSY = fault`, it only sets `faulted`. -/
theorem acceptCommand_fault {c : Byte} {body : State → State} {s : State} (h : s.fdc.bufPos < fdcSector)
    (hp : s.params.cmdWhileBusy = .fault) : acceptCommand c body s = s.setFdc { s.fdc with faulted := true } := by
  unfold acceptCommand
  rw [if_pos h, hp]

/-- During a transfer, with `CMD_WHILE_BUSY = abort_and_execute`, the transfer is ended first. -/
theorem acceptCommand_abort {c : Byte} {body : State → State} {s : State} (h : s.fdc.bufPos < fdcSector)
    (hp : s.params.cmdWhileBusy = .abortAndExecute) :
    acceptCommand c body s = body (loadCommand c (forceInterrupt false false s)) := by
  unfold acceptCommand
  rw [if_pos h, hp]

/-- What an image write can do: the state it leaves differs only in the draws and in the attached store. -/
theorem imageWrite_cases (f : Fdc) (s : State) :
    f.imageFile = none ∧ imageWrite f s = (true, s)
      ∨ ∃ id, f.imageFile = some id ∧ imageWrite f s = memWrite id f.xferOffset (f.buf.readBytes 0 fdcSector) s := by
  unfold imageWrite
  split
  · exact .inl ⟨‹_›, rfl⟩
  · exact .inr ⟨_, ‹_›, rfl⟩

/-- Everything the end of a transfer for a new image can do: the partial buffer goes out first, and no transfer is left
running. -/
theorem endTransfer_cases (s : State) :
    fdcSector ≤ s.fdc.bufPos ∧ endTransfer s = s
      ∨ s.fdc.bufPos < fdcSector ∧ partialWrite s.fdc = false
        ∧ endTransfer s = s.setFdc { s.fdc with
            bufPos := fdcSector, dataRequestFlag := false, statusRegister := clearBusyDrq s.fdc.statusRegister }
      ∨ s.fdc.bufPos < fdcSector ∧ partialWrite s.fdc = true
        ∧ endTransfer s = (let s1 := flushPartial s
            if s1.fdc.bufPos < fdcSector then
              s1.setFdc { s1.fdc with
                bufPos := fdcSector, dataRequestFlag := false, statusRegister := clearBusyDrq s1.fdc.statusRegister }
            else s1) := by
  unfold endTransfer
  by_cases h : s.fdc.bufPos < fdcSector
  · cases hp : partialWrite s.fdc with
    | false => exact .inr (.inl ⟨h, rfl, if_pos h⟩)
    | true => exact .inr (.inr ⟨h, rfl, rfl⟩)
  · have hp : partialWrite s.fdc = false := by simp [partialWrite, h]
    rw [hp]
    exact .inl ⟨by omega, if_neg h⟩

/-! ### Track tables -/

theorem trackOffset_succ (p : Params) (t : Nat) : trackOffset p (t + 1) = trackOffset p t + 256 * sectorsPerTrack p t := rfl

theorem trackOffset_mono (p : Params) {a b : Nat} (h : a ≤ b) : trackOffset p a ≤ trackOffset p b := by
  induction h with
  | refl => exact Nat.le_refl _
  | step _ ih => exact Nat.le_trans ih (Nat.le_add_right _ _)

theorem trackEntry_outside {table : List Nat} {t : Nat} (h : ¬ (1 ≤ t ∧ t ≤ 42)) : trackEntry table t = 0 := if_neg h

/-- Track tables the spec admits: no track has more than 21 sectors or more bytes than the GCR buffer. -/
theorem sectorsPerTrack_le {p : Params} (h : TrackTablesOk p) (t : Nat) : sectorsPerTrack p t ≤ 21 := by
  by_cases ht : 1 ≤ t ∧ t ≤ 42
  · exact (h.1 t ht.1 ht.2).2
  · rw [sectorsPerTrack, trackEntry_outside ht]
    exact Nat.zero_le _

theorem trackSize_le {p : Params} (h : TrackTablesOk p) (t : Nat) : trackSize p t ≤ gcrBufCap := by
  by_cases ht : 1 ≤ t ∧ t ≤ 42
  · exact h.2.2.2 t ht.1 ht.2
  · rw [trackSize, trackEntry_outside ht]
    exact Nat.zero_le _

/-- A 32-bit field holds a 32-bit number. -/
theorem low32_lt (n : Nat) : low32 n < 2 ^ 32 := Nat.mod_lt _ (Nat.two_pow_pos 32)

theorem low32_of_lt {n : Nat} (h : n < 2 ^ 32) : low32 n = n := Nat.mod_eq_of_lt h

/-! ### Track buffer -/

/-- Encoding a track changes the GCR buffer only. -/
theorem encodeTrack_frame (p : Params) (trackNum : Byte) (nSectors nBytes : Nat) (t : Tbm) :
    ∃ g, encodeTrack p trackNum nSectors nBytes t = { t with gcr := g } := by
  unfold encodeTrack
  split
  · exact ⟨_, rfl⟩
  · exact ⟨t.gcr, rfl⟩

/-- Decoding a track changes the sector data and the codes only. -/
theorem decodeTrack_frame (trackNum : Byte) (nSectors nBytes : Nat) (t : Tbm) :
    ∃ d b, (decodeTrack trackNum nSectors nBytes t).2 = { t with d64 := d, bad := b } := by
  unfold decodeTrack
  split
  · exact ⟨_, _, rfl⟩
  · exact ⟨t.d64, t.bad, rfl⟩

/-! ### Tape -/

/-- Everything bringing a block in can do: nothing when it is resident; else the dirty block is written back and the
other block loaded. -/
theorem bringIn_cases (t : Tape) (n : NativeTape) (b : Nat) (s : State) :
    n.blockIndex = some b ∧ bringIn t n b s = (false, n, s)
      ∨ n.blockIndex ≠ some b
          ∧ bringIn t n b s = ((writeBack t n s).1,
              { blockBuf := (loadBlock t b (writeBack t n s).2).1, blockIndex := some b, blockDirty := false },
              (loadBlock t b (writeBack t n s).2).2) := by
  unfold bringIn
  split
  · exact .inl ⟨‹_›, rfl⟩
  · exact .inr ⟨‹_›, rfl⟩

theorem flushNative_eq (t : Tape) (n : NativeTape) (s : State) :
    flushNative t n s = ((writeBack t n s).1 || (writeCues t (writeBack t n s).2).1,
      { t with
        cueDirty := if t.mode = .readOnly then t.cueDirty else false,
        medium := .native { n with blockDirty := false } },
      (writeCues t (writeBack t n s).2).2) := rfl

theorem onTape_none {f : Tape → State → State} {s : State} (h : s.tape = none) : onTape f s = .next (s.returns .none) := by
  unfold onTape
  rw [h]

theorem onTape_some {f : Tape → State → State} {s : State} {t : Tape} (h : s.tape = some t) : onTape f s = .next (f t s) := by
  unfold onTape
  rw [h]

end Sys2Proof.Machine
end

