-- ==== Sys2Proof/Laws/Gcr.lean ====
section
/-! SUPPORT. What a scan of the GCR decoder keeps: the count of good sectors never falls; a buffer without a sync run
decodes to no sector. -/

namespace Sys2Proof.Machine

theorem scanData_count_le (b : Nat → Byte) (n s j : Nat) (sc : Scan) : sc.count ≤ (scanData b n s j sc).count := by
  unfold scanData
  split
  · exact Nat.le_refl _
  · dsimp only
    repeat' split
    all_goals first
      | exact Nat.le_refl _
      | exact Nat.le_succ _

theorem scanTurn_count_le {b : Nat → Byte} {n m : Nat} {t : Byte} {sc sc' : Scan}
    (h : scanTurn b n t m sc = some sc') : sc.count ≤ sc'.count := by
  unfold scanTurn at h
  split at h
  · cases h
  · dsimp only at h
    repeat' split at h
    all_goals
      cases h
      first
        | exact Nat.le_refl _
        | exact scanData_count_le _ _ _ _ _

theorem scanTrack_count_le (b : Nat → Byte) (n m : Nat) (t : Byte) (fuel : Nat) (sc : Scan) :
    sc.count ≤ (scanTrack b n t m fuel sc).count := by
  induction fuel generalizing sc with
  | zero => exact Nat.le_refl _
  | succ k ih =>
    unfold scanTrack
    split
    · split
      · exact Nat.le_refl _
      · rename_i h
        exact Nat.le_trans (scanTurn_count_le h) (ih _)
    · exact Nat.le_refl _

/-- A scan whose first turn counts a sector counts at least that one. -/
theorem decodeTrack_pos (t : Tbm) (trackNum : Byte) (nSectors nBytes : Nat) (sc : Scan) (hd : trackDomain nSectors nBytes = true)
    (hn : 0 < nBytes) (hf : firstSyncPos (t.gcr.readBytes 0 nBytes).toArray nBytes = some 0)
    (h : scanTurn (circular (t.gcr.readBytes 0 nBytes).toArray nBytes 0) nBytes trackNum nSectors
      (Scan.start nSectors t.d64) = some sc) (hc : 0 < sc.count) :
    (decodeTrack trackNum nSectors nBytes t).1 ≠ 0 := by
  obtain ⟨k, rfl⟩ : ∃ k, nBytes = k + 1 := ⟨nBytes - 1, by omega⟩
  have hle := scanTrack_count_le (circular (t.gcr.readBytes 0 (k + 1)).toArray (k + 1) 0) (k + 1) nSectors trackNum k sc
  have : (decodeTrack trackNum nSectors (k + 1) t).1
      = (scanTrack (circular (t.gcr.readBytes 0 (k + 1)).toArray (k + 1) 0) (k + 1) trackNum nSectors k sc).count := by
    simp only [decodeTrack, hd, scanned, hf, if_true, scanTrack, Scan.start, hn]
    simp only [Scan.start] at h
    rw [h]
  omega

/-- Where the first sync run is found: the first place with two 0xFF bytes and another byte before them. -/
theorem firstSyncPos_some {g : Array Byte} {n f : Nat} (h : firstSyncPos g n = some f) :
    f < n ∧ circular g n 0 f = 0xFF ∧ circular g n 0 (f + 1) = 0xFF ∧ circular g n 0 (f + n - 1) ≠ 0xFF := by
  obtain ⟨-, h2, h3, -⟩ := findFrom_some h
  simp only [Bool.and_eq_true, beq_iff_eq, bne_iff_ne] at h3
  exact ⟨by omega, h3.1.1, h3.1.2, h3.2⟩

/-- An empty GCR buffer decodes to no sector. -/
theorem decodeTrack_nil {t : Tbm} (hg : t.gcr = []) (trackNum : Byte) (nSectors nBytes : Nat) :
    (decodeTrack trackNum nSectors nBytes t).1 = 0 := by
  unfold decodeTrack
  split
  · have hn : firstSyncPos (t.gcr.readBytes 0 nBytes).toArray nBytes = none := by
      cases h : firstSyncPos (t.gcr.readBytes 0 nBytes).toArray nBytes with
      | none => rfl
      | some f =>
        have h2 := (firstSyncPos_some h).2.1
        rw [hg] at h2
        simp only [circular, Memory.readBytes_eq, Memory.read, List.map_const', List.length_range, Array.getD_eq_getD_getElem?,
          List.getElem?_toArray, List.getElem?_replicate] at h2
        split at h2 <;> simp at h2
    simp [scanned, hn, Scan.start]
  · rfl

end Sys2Proof.Machine
end

