-- ==== Sys2Proof/Laws/PerInstr.lean ====
section
/-! SUPPORT. Statements about every instruction as syntax, one lemma per constructor. -/

namespace Sys2Proof

/-- The call that encodes an instruction has its opcode byte and at most `maxCallBytes` bytes, so that a word of the
opcode table (`tableCall`) has room for every call. -/
def Laws.EncodeLength.Statement (i : Instr) : Prop :=
  1 ≤ (encode i).bytes.length ∧ (encode i).bytes.length ≤ maxCallBytes

@[simp] theorem beBytes_length (k n : Nat) : (beBytes k n).length = k := by
  induction k generalizing n with
  | zero => rfl
  | succ k ih => simp [beBytes, ih]

@[simp] theorem leBytes_length (k n : Nat) : (leBytes k n).length = k := by
  induction k generalizing n with
  | zero => rfl
  | succ k ih => simp [leBytes, ih]

/-- A call of at most 24 argument bytes has room. -/
theorem opCall_fits (id : Byte) (args : List Byte) (h : args.length ≤ 24) :
    1 ≤ (opCall id args).bytes.length ∧ (opCall id args).bytes.length ≤ maxCallBytes := by
  simp [opCall, maxCallBytes]; omega

theorem portCall_fits (p : Byte) (data : List Byte) (h : data.length ≤ 24) :
    1 ≤ (portCall p data).bytes.length ∧ (portCall p data).bytes.length ≤ maxCallBytes := by
  simp [portCall, maxCallBytes]; omega

theorem commandCall_fits (c : Byte) :
    1 ≤ (commandCall c).bytes.length ∧ (commandCall c).bytes.length ≤ maxCallBytes := by
  simp [commandCall, maxCallBytes]

theorem Laws.EncodeLength.restore (h v : Bool) (r : BitVec 2) :
    Laws.EncodeLength.Statement (.restore h v r) := commandCall_fits _

theorem Laws.EncodeLength.seek (h v : Bool) (r : BitVec 2) :
    Laws.EncodeLength.Statement (.seek h v r) := commandCall_fits _

theorem Laws.EncodeLength.step (u h v : Bool) (r : BitVec 2) :
    Laws.EncodeLength.Statement (.step u h v r) := commandCall_fits _

theorem Laws.EncodeLength.stepIn (u h v : Bool) (r : BitVec 2) :
    Laws.EncodeLength.Statement (.stepIn u h v r) := commandCall_fits _

theorem Laws.EncodeLength.stepOut (u h v : Bool) (r : BitVec 2) :
    Laws.EncodeLength.Statement (.stepOut u h v r) := commandCall_fits _

theorem Laws.EncodeLength.rdsec (m hs e pc b0 : Bool) :
    Laws.EncodeLength.Statement (.rdsec m hs e pc b0) := commandCall_fits _

theorem Laws.EncodeLength.wrsec (m hs e pc a0 : Bool) :
    Laws.EncodeLength.Statement (.wrsec m hs e pc a0) := commandCall_fits _

theorem Laws.EncodeLength.rdaddr (hs e b1 b0 : Bool) :
    Laws.EncodeLength.Statement (.rdaddr hs e b1 b0) := commandCall_fits _

theorem Laws.EncodeLength.forceint (i3 i2 i1 i0 : Bool) :
    Laws.EncodeLength.Statement (.forceint i3 i2 i1 i0) := commandCall_fits _

theorem Laws.EncodeLength.rdtrk (hs e b1 b0 : Bool) :
    Laws.EncodeLength.Statement (.rdtrk hs e b1 b0) := commandCall_fits _

theorem Laws.EncodeLength.wrtrk (hs e p b0 : Bool) :
    Laws.EncodeLength.Statement (.wrtrk hs e p b0) := commandCall_fits _

theorem Laws.EncodeLength.st :
    Laws.EncodeLength.Statement .st := portCall_fits _ _ (by simp)

theorem Laws.EncodeLength.cmd (v : Byte) :
    Laws.EncodeLength.Statement (.cmd v) := portCall_fits _ _ (by simp)

theorem Laws.EncodeLength.rtr :
    Laws.EncodeLength.Statement .rtr := portCall_fits _ _ (by simp)

theorem Laws.EncodeLength.wtr (v : Byte) :
    Laws.EncodeLength.Statement (.wtr v) := portCall_fits _ _ (by simp)

theorem Laws.EncodeLength.rsr :
    Laws.EncodeLength.Statement .rsr := portCall_fits _ _ (by simp)

theorem Laws.EncodeLength.wsr (v : Byte) :
    Laws.EncodeLength.Statement (.wsr v) := portCall_fits _ _ (by simp)

theorem Laws.EncodeLength.rdr :
    Laws.EncodeLength.Statement .rdr := portCall_fits _ _ (by simp)

theorem Laws.EncodeLength.wdr (v : Byte) :
    Laws.EncodeLength.Statement (.wdr v) := portCall_fits _ _ (by simp)

theorem Laws.EncodeLength.gcrEncodeFourBytes (b0 b1 b2 b3 : Byte) :
    Laws.EncodeLength.Statement (.gcrEncodeFourBytes b0 b1 b2 b3) := opCall_fits _ _ (by simp)

theorem Laws.EncodeLength.gcrDecodeFourBytes (g0 g1 g2 g3 g4 : Byte) :
    Laws.EncodeLength.Statement (.gcrDecodeFourBytes g0 g1 g2 g3 g4) := opCall_fits _ _ (by simp)

theorem Laws.EncodeLength.gcrEncodeTrack (trackNum : Byte) (nSectors nBytes : Nat) :
    Laws.EncodeLength.Statement (.gcrEncodeTrack trackNum nSectors nBytes) := opCall_fits _ _ (by simp)

theorem Laws.EncodeLength.gcrDecodeTrack (trackNum : Byte) (nSectors nBytes : Nat) :
    Laws.EncodeLength.Statement (.gcrDecodeTrack trackNum nSectors nBytes) := opCall_fits _ _ (by simp)

theorem Laws.EncodeLength.setImageFile (file : Option Nat) (readOnly : Bool) :
    Laws.EncodeLength.Statement (.setImageFile file readOnly) := opCall_fits _ _ (by simp [fileBytes])

theorem Laws.EncodeLength.readTrack (trackNum : Int) :
    Laws.EncodeLength.Statement (.readTrack trackNum) := opCall_fits _ _ (by simp [intBytes])

theorem Laws.EncodeLength.flushTrack (trackNum : Int) :
    Laws.EncodeLength.Statement (.flushTrack trackNum) := opCall_fits _ _ (by simp [intBytes])

theorem Laws.EncodeLength.setCurrentTrack (trackNum : Int) :
    Laws.EncodeLength.Statement (.setCurrentTrack trackNum) := opCall_fits _ _ (by simp [intBytes])

theorem Laws.EncodeLength.gcrReadByte (i : Nat) :
    Laws.EncodeLength.Statement (.gcrReadByte i) := opCall_fits _ _ (by simp)

theorem Laws.EncodeLength.gcrWriteByte (i : Nat) (v : Byte) :
    Laws.EncodeLength.Statement (.gcrWriteByte i v) := opCall_fits _ _ (by simp)

theorem Laws.EncodeLength.getTrackInfo :
    Laws.EncodeLength.Statement .getTrackInfo := opCall_fits _ _ (by simp)

theorem Laws.EncodeLength.setSectorErrorCode (s : Nat) (code : Byte) :
    Laws.EncodeLength.Statement (.setSectorErrorCode s code) := opCall_fits _ _ (by simp)

theorem Laws.EncodeLength.getSectorErrorCode (s : Nat) :
    Laws.EncodeLength.Statement (.getSectorErrorCode s) := opCall_fits _ _ (by simp)

theorem Laws.EncodeLength.closeD64 :
    Laws.EncodeLength.Statement .closeD64 := opCall_fits _ _ (by simp)

theorem Laws.EncodeLength.writeCommandRegister (v : Byte) :
    Laws.EncodeLength.Statement (.writeCommandRegister v) := opCall_fits _ _ (by simp)

theorem Laws.EncodeLength.readStatusRegister :
    Laws.EncodeLength.Statement .readStatusRegister := opCall_fits _ _ (by simp)

theorem Laws.EncodeLength.writeTrackRegister (v : Byte) :
    Laws.EncodeLength.Statement (.writeTrackRegister v) := opCall_fits _ _ (by simp)

theorem Laws.EncodeLength.readTrackRegister :
    Laws.EncodeLength.Statement .readTrackRegister := opCall_fits _ _ (by simp)

theorem Laws.EncodeLength.writeSectorRegister (v : Byte) :
    Laws.EncodeLength.Statement (.writeSectorRegister v) := opCall_fits _ _ (by simp)

theorem Laws.EncodeLength.readSectorRegister :
    Laws.EncodeLength.Statement .readSectorRegister := opCall_fits _ _ (by simp)

theorem Laws.EncodeLength.writeDataRegister (v : Byte) :
    Laws.EncodeLength.Statement (.writeDataRegister v) := opCall_fits _ _ (by simp)

theorem Laws.EncodeLength.readDataRegister :
    Laws.EncodeLength.Statement .readDataRegister := opCall_fits _ _ (by simp)

theorem Laws.EncodeLength.peekRegister (a : BitVec 2) :
    Laws.EncodeLength.Statement (.peekRegister a) := opCall_fits _ _ (by simp)

theorem Laws.EncodeLength.getHeadPosition :
    Laws.EncodeLength.Statement .getHeadPosition := opCall_fits _ _ (by simp)

theorem Laws.EncodeLength.getInterruptRequest :
    Laws.EncodeLength.Statement .getInterruptRequest := opCall_fits _ _ (by simp)

theorem Laws.EncodeLength.getDataRequest :
    Laws.EncodeLength.Statement .getDataRequest := opCall_fits _ _ (by simp)

theorem Laws.EncodeLength.setDiskImageFile (file : Option Nat) (readOnly : Bool) (nTracks nSides nSectorsPerTrack : Nat) :
    Laws.EncodeLength.Statement (.setDiskImageFile file readOnly nTracks nSides nSectorsPerTrack) := opCall_fits _ _ (by simp [fileBytes])

theorem Laws.EncodeLength.setSide (h : Byte) :
    Laws.EncodeLength.Statement (.setSide h) := opCall_fits _ _ (by simp)

theorem Laws.EncodeLength.resetFdc :
    Laws.EncodeLength.Statement .resetFdc := opCall_fits _ _ (by simp)

theorem Laws.EncodeLength.closeFdc :
    Laws.EncodeLength.Statement .closeFdc := opCall_fits _ _ (by simp)

theorem Laws.EncodeLength.openTape (a : OpenArgs) :
    Laws.EncodeLength.Statement (.openTape a) := opCall_fits _ _ (by simp [openArgsBytes])

theorem Laws.EncodeLength.play :
    Laws.EncodeLength.Statement .play := opCall_fits _ _ (by simp)

theorem Laws.EncodeLength.record :
    Laws.EncodeLength.Statement .record := opCall_fits _ _ (by simp)

theorem Laws.EncodeLength.stop :
    Laws.EncodeLength.Statement .stop := opCall_fits _ _ (by simp)

theorem Laws.EncodeLength.setIsMotorOn (b : Bool) :
    Laws.EncodeLength.Statement (.setIsMotorOn b) := opCall_fits _ _ (by simp)

theorem Laws.EncodeLength.runOneSample :
    Laws.EncodeLength.Statement .runOneSample := opCall_fits _ _ (by simp)

theorem Laws.EncodeLength.getInputSignal :
    Laws.EncodeLength.Statement .getInputSignal := opCall_fits _ _ (by simp)

theorem Laws.EncodeLength.setOutputSignal (v : Byte) :
    Laws.EncodeLength.Statement (.setOutputSignal v) := opCall_fits _ _ (by simp)

theorem Laws.EncodeLength.tapeSeek (t : Rat) :
    Laws.EncodeLength.Statement (.tapeSeek t) := opCall_fits _ _ (by simp [secondsBytes])

theorem Laws.EncodeLength.seekToCuePoint (forward : Bool) (maxSkipSeconds : Rat) :
    Laws.EncodeLength.Statement (.seekToCuePoint forward maxSkipSeconds) := opCall_fits _ _ (by simp [secondsBytes])

theorem Laws.EncodeLength.addCuePoint :
    Laws.EncodeLength.Statement .addCuePoint := opCall_fits _ _ (by simp)

theorem Laws.EncodeLength.deleteNearestCuePoint :
    Laws.EncodeLength.Statement .deleteNearestCuePoint := opCall_fits _ _ (by simp)

theorem Laws.EncodeLength.deleteAllCuePoints :
    Laws.EncodeLength.Statement .deleteAllCuePoints := opCall_fits _ _ (by simp)

theorem Laws.EncodeLength.getTapeInfo :
    Laws.EncodeLength.Statement .getTapeInfo := opCall_fits _ _ (by simp)

theorem Laws.EncodeLength.closeTape :
    Laws.EncodeLength.Statement .closeTape := opCall_fits _ _ (by simp)

end Sys2Proof
end

