-- ==== Sys2Proof/Tests/Slice0.lean ====
section
/-! SUPPORT. The model's own tests: the well-formedness smoke, one written-out word for every constructor, steps whose
results are the vectors of 95_test_vectors.md, and for every statement with hypotheses a state that meets them. -/

set_option Elab.async false

namespace Sys2Proof.Tests

open Sys2Proof.Machine

/-! ### Well-formedness: each check refuses an ill-formed term -/

theorem test_wf_encode_sectors : Instr.wellFormed (.gcrEncodeTrack 1 4294967296 0) = false := by decide
theorem test_wf_encode_bytes : Instr.wellFormed (.gcrEncodeTrack 1 0 4294967296) = false := by decide
theorem test_wf_decode_sectors : Instr.wellFormed (.gcrDecodeTrack 1 4294967296 0) = false := by decide
theorem test_wf_image_file : Instr.wellFormed (.setImageFile (some 4294967296) true) = false := by decide
theorem test_wf_read_track : Instr.wellFormed (.readTrack 2147483648) = false := by decide
theorem test_wf_flush_track : Instr.wellFormed (.flushTrack (-2147483649)) = false := by decide
theorem test_wf_set_track : Instr.wellFormed (.setCurrentTrack 2147483648) = false := by decide
theorem test_wf_gcr_read : Instr.wellFormed (.gcrReadByte 4294967296) = false := by decide
theorem test_wf_gcr_write : Instr.wellFormed (.gcrWriteByte 4294967296 0) = false := by decide
theorem test_wf_set_code : Instr.wellFormed (.setSectorErrorCode 4294967296 1) = false := by decide
theorem test_wf_get_code : Instr.wellFormed (.getSectorErrorCode 4294967296) = false := by decide
theorem test_wf_disk_image : Instr.wellFormed (.setDiskImageFile none true 0 0 4294967296) = false := by decide
theorem test_wf_open_tape :
    Instr.wellFormed (.openTape ⟨.native, 1, .create, 8, 4294967296, 4, 0, false, false⟩) = false := by decide
theorem test_wf_seek : Instr.wellFormed (.tapeSeek (9223372036854775808 : Int)) = false := by decide +kernel
theorem test_wf_cue_seek : Instr.wellFormed (.seekToCuePoint true (mkRat 1 4294967297)) = false := by decide +kernel
theorem test_wf_accepts : Instr.wellFormed (.gcrEncodeTrack 255 4294967295 4294967295) = true := by decide

/-! ### Decoding: every constructor from a word written out from 30_encoding.md -/

/-- The command bytes of 30_encoding.md R141 to R144. -/
theorem test_decode_commands :
    decode ⟨.fdcCommand, [0b00001110]⟩ = .ok (.restore true true 2)
    ∧ decode ⟨.fdcCommand, [0b00010101]⟩ = .ok (.seek false true 1)
    ∧ decode ⟨.fdcCommand, [0b00110000]⟩ = .ok (.step true false false 0)
    ∧ decode ⟨.fdcCommand, [0b01000111]⟩ = .ok (.stepIn false false true 3)
    ∧ decode ⟨.fdcCommand, [0b01111000]⟩ = .ok (.stepOut true true false 0)
    ∧ decode ⟨.fdcCommand, [0b10001010]⟩ = .ok (.rdsec false true false true false)
    ∧ decode ⟨.fdcCommand, [0b10110101]⟩ = .ok (.wrsec true false true false true)
    ∧ decode ⟨.fdcCommand, [0b11000100]⟩ = .ok (.rdaddr false true false false)
    ∧ decode ⟨.fdcCommand, [0b11011000]⟩ = .ok (.forceint true false false false)
    ∧ decode ⟨.fdcCommand, [0b11101000]⟩ = .ok (.rdtrk true false false false)
    ∧ decode ⟨.fdcCommand, [0b11110010]⟩ = .ok (.wrtrk false false true false) := by decide

/-- The port values of 30_encoding.md R150 (`A1 A0 W`). -/
theorem test_decode_ports :
    decode ⟨.fdcPort, [0b000]⟩ = .ok .st
    ∧ decode ⟨.fdcPort, [0b001, 0x14]⟩ = .ok (.cmd 0x14)
    ∧ decode ⟨.fdcPort, [0b010]⟩ = .ok .rtr
    ∧ decode ⟨.fdcPort, [0b011, 0x05]⟩ = .ok (.wtr 0x05)
    ∧ decode ⟨.fdcPort, [0b100]⟩ = .ok .rsr
    ∧ decode ⟨.fdcPort, [0b101, 0x03]⟩ = .ok (.wsr 0x03)
    ∧ decode ⟨.fdcPort, [0b110]⟩ = .ok .rdr
    ∧ decode ⟨.fdcPort, [0b111, 0x12]⟩ = .ok (.wdr 0x12) := by decide

/-- The ids 0x01 to 0x19 of 30_encoding.md R170; the argument bytes are notes/assumptions/2.md's. -/
theorem test_decode_disk_ops :
    decode ⟨.hostOp, [0x01, 0x08, 0x01, 0x00, 0x12]⟩ = .ok (.gcrEncodeFourBytes 0x08 0x01 0x00 0x12)
    ∧ decode ⟨.hostOp, [0x02, 0x52, 0x54, 0xB5, 0x29, 0x72]⟩ = .ok (.gcrDecodeFourBytes 0x52 0x54 0xB5 0x29 0x72)
    ∧ decode ⟨.hostOp, [0x03, 0x01, 0, 0, 0, 0x15, 0, 0, 0x1E, 0x0C]⟩ = .ok (.gcrEncodeTrack 1 21 7692)
    ∧ decode ⟨.hostOp, [0x04, 0x12, 0, 0, 0, 0x13, 0, 0, 0x1B, 0xE6]⟩ = .ok (.gcrDecodeTrack 18 19 7142)
    ∧ decode ⟨.hostOp, [0x10, 1, 0, 0, 0, 4, 0]⟩ = .ok (.setImageFile (some 4) false)
    ∧ decode ⟨.hostOp, [0x10, 0, 0, 0, 0, 0, 1]⟩ = .ok (.setImageFile none true)
    ∧ decode ⟨.hostOp, [0x11, 0, 0, 0, 0x12]⟩ = .ok (.readTrack 18)
    ∧ decode ⟨.hostOp, [0x12, 0xFF, 0xFF, 0xFF, 0xFF]⟩ = .ok (.flushTrack (-1))
    ∧ decode ⟨.hostOp, [0x13, 0, 0, 0, 1]⟩ = .ok (.setCurrentTrack 1)
    ∧ decode ⟨.hostOp, [0x14, 0, 0, 0x01, 0x70]⟩ = .ok (.gcrReadByte 368)
    ∧ decode ⟨.hostOp, [0x15, 0, 0, 0x01, 0x88, 0x55]⟩ = .ok (.gcrWriteByte 392 0x55)
    ∧ decode ⟨.hostOp, [0x16]⟩ = .ok .getTrackInfo
    ∧ decode ⟨.hostOp, [0x17, 0, 0, 0, 0, 0x09]⟩ = .ok (.setSectorErrorCode 0 9)
    ∧ decode ⟨.hostOp, [0x18, 0, 0, 0, 3]⟩ = .ok (.getSectorErrorCode 3)
    ∧ decode ⟨.hostOp, [0x19]⟩ = .ok .closeD64 := by decide

/-- The ids 0x20 to 0x2F of 30_encoding.md R170. -/
theorem test_decode_fdc_ops :
    decode ⟨.hostOp, [0x20, 0x80]⟩ = .ok (.writeCommandRegister 0x80)
    ∧ decode ⟨.hostOp, [0x21]⟩ = .ok .readStatusRegister
    ∧ decode ⟨.hostOp, [0x22, 0x05]⟩ = .ok (.writeTrackRegister 0x05)
    ∧ decode ⟨.hostOp, [0x23]⟩ = .ok .readTrackRegister
    ∧ decode ⟨.hostOp, [0x24, 0x03]⟩ = .ok (.writeSectorRegister 0x03)
    ∧ decode ⟨.hostOp, [0x25]⟩ = .ok .readSectorRegister
    ∧ decode ⟨.hostOp, [0x26, 0xA5]⟩ = .ok (.writeDataRegister 0xA5)
    ∧ decode ⟨.hostOp, [0x27]⟩ = .ok .readDataRegister
    ∧ decode ⟨.hostOp, [0x28, 0b10]⟩ = .ok (.peekRegister 2)
    ∧ decode ⟨.hostOp, [0x29]⟩ = .ok .getHeadPosition
    ∧ decode ⟨.hostOp, [0x2A]⟩ = .ok .getInterruptRequest
    ∧ decode ⟨.hostOp, [0x2B]⟩ = .ok .getDataRequest
    ∧ decode ⟨.hostOp, [0x2C, 1, 0, 0, 0, 1, 0, 0, 0, 0, 80, 0, 0, 0, 2, 0, 0, 0, 10]⟩
        = .ok (.setDiskImageFile (some 1) false 80 2 10)
    ∧ decode ⟨.hostOp, [0x2D, 1]⟩ = .ok (.setSide 1)
    ∧ decode ⟨.hostOp, [0x2E]⟩ = .ok .resetFdc
    ∧ decode ⟨.hostOp, [0x2F]⟩ = .ok .closeFdc := by decide

/-- The ids 0x30 to 0x3E of 30_encoding.md R170. -/
theorem test_decode_tape_ops :
    decode ⟨.hostOp, [0x30, 0, 0, 0, 0, 5, 2, 0, 0, 0, 8, 0, 0, 0xAC, 0x44, 0, 0, 0, 4, 0, 0, 0, 0, 0, 1]⟩
        = .ok (.openTape ⟨.native, 5, .create, 8, 44100, 4, 0, false, true⟩)
    ∧ decode ⟨.hostOp, [0x31]⟩ = .ok .play
    ∧ decode ⟨.hostOp, [0x32]⟩ = .ok .record
    ∧ decode ⟨.hostOp, [0x33]⟩ = .ok .stop
    ∧ decode ⟨.hostOp, [0x34, 1]⟩ = .ok (.setIsMotorOn true)
    ∧ decode ⟨.hostOp, [0x35]⟩ = .ok .runOneSample
    ∧ decode ⟨.hostOp, [0x36]⟩ = .ok .getInputSignal
    ∧ decode ⟨.hostOp, [0x37, 0x37]⟩ = .ok (.setOutputSignal 0x37)
    ∧ decode ⟨.hostOp, [0x38, 0, 0, 0, 0, 0, 0, 0, 5, 0, 0, 0, 1]⟩ = .ok (.tapeSeek (5 / 2))
    ∧ decode ⟨.hostOp, [0x39, 1, 0xFF, 0xFF, 0xFF, 0xFF, 0xFF, 0xFF, 0xFF, 0xFF, 0, 0, 0, 0]⟩
        = .ok (.seekToCuePoint true (-1))
    ∧ decode ⟨.hostOp, [0x3A]⟩ = .ok .addCuePoint
    ∧ decode ⟨.hostOp, [0x3B]⟩ = .ok .deleteNearestCuePoint
    ∧ decode ⟨.hostOp, [0x3C]⟩ = .ok .deleteAllCuePoints
    ∧ decode ⟨.hostOp, [0x3D]⟩ = .ok .getTapeInfo
    ∧ decode ⟨.hostOp, [0x3E]⟩ = .ok .closeTape := by decide +kernel

/-- What the decoder refuses, each by its name. -/
theorem test_decode_refuses :
    decode ⟨.hostOp, []⟩ = .error .emptyCall
    ∧ decode ⟨.fdcPort, [0x08]⟩ = .error (.unknownPort 0x08)
    ∧ decode ⟨.fdcPort, [0x07]⟩ = .error (.missingData 0x07)
    ∧ decode ⟨.hostOp, [0x3F]⟩ = .error (.unknownOperation 0x3F)
    ∧ decode ⟨.hostOp, [0x34, 0x02]⟩ = .error (.badArguments 0x34)
    ∧ decode ⟨.hostOp, [0x13, 0, 0, 0]⟩ = .error (.badArguments 0x13) := by decide

/-- Words of the opcode table as the host numbers them, and the step that runs one from reset. -/
theorem test_table_words :
    decodeTableWord 8 0x2E = some .resetFdc ∧ decodeTableWord 8 0x80 = some (.rdsec false false false false false)
    ∧ decodeTableWord 8 0x00 = some .st ∧ decodeTableWord 8 0x38 = some (.tapeSeek 0) := by decide +kernel

/-! ### Helpers -/

/-- The state an instruction leaves. -/
def after (i : Instr) (s : State) : State :=
  match exec i s with
  | .next t => t
  | _ => s

/-- The state some instructions leave, run one after another. -/
def afterAll : List Instr → State → State
  | [], s => s
  | i :: is, s => afterAll is (after i s)

/-- No failure for the accesses a test makes. -/
def quiet (s : State) : State := { s with ioScript := [false, false, false, false] }

/-- The state whose next store access fails. -/
def failing (s : State) : State := { s with ioScript := [true] }

/-- An 80×2×10 disk of store 1 attached, byte `k` of the store listed by `cells`. -/
def disk (ro : Bool) (cells : Memory) : State :=
  quiet { State.reset with
    stores := [(1, .bytes 819200 cells)],
    fdc := { Fdc.construct {} with imageFile := some 1, readOnly := ro, nTracks := 80, nSides := 2, nSectorsPerTrack := 10 } }

/-- A 35-track D64 image of store 4, nothing attached. -/
def d64Host : State := quiet { State.reset with stores := [(4, .bytes 174848 [(91392, 0x5A)])] }

/-- A Native tape of store 5, 8 bits requested, with `bits` bits a sample and the cue points `cues`. -/
def nativeDeck (bits len pos : Nat) (cues : List Nat) (block : Option Nat) (buf : Memory) (dirty : Bool) : State :=
  quiet { State.reset with
    stores := [(5, .bytes 4098 [(4096, 0x3F), (4097, 0x80)])],
    tape := some
      { openingTape ⟨.native, 5, .readWrite, 8, 44100, bits, 0, false, false⟩ with
        tapeLength := len, tapePosition := pos, sampleRate := 44100, fileBitsPerSample := bits, cuePoints := cues,
        isMotorOn := true,
        medium := .native { blockBuf := buf, blockIndex := block, blockDirty := dirty } } }

/-- The open tape of a state. -/
def tapeOf (s : State) : Tape := s.tape.getD (openingTape ⟨.native, 0, .readOnly, 8, 0, 8, 0, false, false⟩)

/-- The state with the tape changed. -/
def onDeck (f : Tape → Tape) (s : State) : State := { s with tape := s.tape.map f }

/-- The C16 TAP of program P6 (95_test_vectors.md section 3) in store 6. -/
def tapBytes : List Byte := c16Magic ++ [0x02, 0, 0, 0, 0, 0, 0, 0, 0x04, 0x02, 0x00, 0x30, 0x00, 0x00]

def tapHost : State := quiet { State.reset with stores := [(6, .bytes 26 (Memory.ofBytes tapBytes))] }

/-- The deck once P6 has opened its tape and pressed play with the motor on. -/
def tapDeck : State :=
  afterAll [.openTape ⟨.legacyTap, 6, .readOnly, 1, 0, 0, 0, false, false⟩, .play, .setIsMotorOn true] tapHost

/-! ### GCR codec (95_test_vectors.md 2.1, 2.3, 2.4) -/

theorem test_gcrEncodeFourBytes :
    (after (.gcrEncodeFourBytes 0x89 0xAB 0xCD 0xEF) State.reset).result = .bytes [0x4E, 0x75, 0xB6, 0xF7, 0xD5] := by
  decide +kernel

theorem test_gcrDecodeFourBytes :
    (after (.gcrDecodeFourBytes 0x52 0x54 0xA5 0x29 0x40) State.reset).result
      = .decoded [0x08, 0x00, 0x00, 0x00] false := by
  decide +kernel

/-- TBM with the disk ID characters of the vectors of 2.3. -/
def tbmAB : State := { State.reset with tbm := { Tbm.construct {} with idCharacter2 := 0x42 } }

theorem test_gcrEncodeTrack :
    (after (.gcrEncodeTrack 1 1 400) tbmAB).tbm.gcr.readBytes 0 30
      = [0xFF, 0xFF, 0xFF, 0xFF, 0xFF, 0x52, 0x55, 0x25, 0x29, 0x4B, 0x74, 0x9C, 0xB5, 0x55, 0x55,
         0x55, 0x55, 0x55, 0x55, 0x55, 0x55, 0x55, 0x55, 0x55, 0xFF, 0xFF, 0xFF, 0xFF, 0xFF, 0x55] := by
  decide +kernel

/-- Fault code 0x09 of the header reads back from a track cut before its data. -/
theorem test_gcrDecodeTrack :
    (fun t : State => (t.result, t.tbm.bad.read 0))
        (afterAll [.setSectorErrorCode 0 9, .gcrEncodeTrack 1 1 100, .gcrDecodeTrack 1 1 100] tbmAB)
      = (.count 0, 0x09) := by
  decide +kernel

/-- The decode of 2.4 over a D64 buffer of 0xEE: the good sector's bytes are those encoded, the byte after it stays. -/
theorem test_gcrDecodeTrack_good :
    let e := after (.gcrEncodeTrack 1 1 400) { tbmAB with tbm := { tbmAB.tbm with d64 := [(0, 0x5A), (255, 0xA5)] } }
    let filled := { e with tbm := { e.tbm with d64 := Memory.ofBytes (List.replicate 257 0xEE) } }
    (fun t : State => (t.result, [0, 1, 255, 256].map t.tbm.d64.read)) (after (.gcrDecodeTrack 1 1 400) filled)
      = (.count 1, [0x5A, 0x00, 0xA5, 0xEE]) := by
  decide +kernel

/-- The CRC vectors of 2.2. -/
theorem test_crc16 :
    crc16 [0x31, 0x32, 0x33, 0x34, 0x35, 0x36, 0x37, 0x38, 0x39] = 0x29B1
    ∧ crc16 [0xA1, 0xA1, 0xA1, 0xFE, 0x11, 0x00, 0x01, 0x02] = 0xA77C := by
  decide +kernel

/-! ### Track buffer manager (2.6) -/

theorem test_setImageFile :
    (after (.setImageFile (some 4) false) d64Host).tbm.nTracks = 35
    ∧ (after (.setImageFile (some 4) false) d64Host).tbm.idCharacter2 = 0x42
    ∧ (after (.setImageFile (some 4) false) d64Host).tbm.currentTrack = 18
    ∧ (after (.setImageFile (some 4) false) d64Host).result = .none := by
  decide +kernel

theorem test_setImageFile_badLength :
    (after (.setImageFile (some 1) false) (disk false [])).result = .hostIoError .badLength := by
  decide +kernel

/-- A 35-track image attached with track 18 current and nothing loaded yet. -/
def d64Bare : State :=
  { d64Host with tbm := { Tbm.construct {} with imageFile := some 4, readOnly := false, nTracks := 35, currentTrack := 18 } }

theorem test_readTrack :
    (after (.readTrack (-1)) d64Bare).result = .bool true
    ∧ (after (.readTrack (-1)) d64Bare).tbm.d64.read 0 = 0x5A := by
  decide +kernel

theorem test_readTrack_outside : (after (.readTrack 36) d64Bare).result = .bool false := by decide +kernel

theorem test_flushTrack_clean : (after (.flushTrack (-1)) d64Bare).result = .bool true := by decide +kernel

theorem test_flushTrack_noSector :
    (after (.flushTrack 18) { d64Bare with tbm := { d64Bare.tbm with trackDirtyFlag := true, readOnly := true } }).tbm.trackDirtyFlag
      = false := by
  decide +kernel

theorem test_setCurrentTrack_clamps :
    (after (.setCurrentTrack 43) d64Bare).tbm.currentTrack = 42
    ∧ (after (.setCurrentTrack 43) d64Bare).result = .bool false
    ∧ (after (.setCurrentTrack 0) d64Bare).tbm.currentTrack = 1 := by
  decide +kernel

theorem test_gcrReadByte :
    (after (.gcrReadByte (7142 + 5)) { d64Bare with tbm := { d64Bare.tbm with gcr := [(5, 0x52)] } }).result
      = .byte 0x52 := by
  decide +kernel

theorem test_gcrWriteByte :
    (after (.gcrWriteByte 7142 0x55) d64Bare).tbm.gcr = [(0, 0x55)]
    ∧ (after (.gcrWriteByte 0 0x55) d64Bare).tbm.trackDirtyFlag = true := by
  decide +kernel

theorem test_getTrackInfo : (after .getTrackInfo d64Bare).result = .trackInfo 18 7142 19 false := by decide +kernel

theorem test_setSectorErrorCode :
    (after (.setSectorErrorCode 23 9) State.reset).tbm.bad.read 23 = 0x09
    ∧ (after (.setSectorErrorCode 24 9) State.reset).tbm = State.reset.tbm := by
  decide +kernel

theorem test_getSectorErrorCode :
    (after (.getSectorErrorCode 23) State.reset).result = .byte 0x01
    ∧ (after (.getSectorErrorCode 24) State.reset).result = .byte 0x00 := by
  decide +kernel

theorem test_closeD64 :
    (after .closeD64 d64Bare).tbm.imageFile = none ∧ (after .closeD64 d64Bare).tbm.currentTrack = 0 := by
  decide +kernel

/-! ### Floppy controller: type I (2.8) -/

theorem test_restore : (after (.restore false false 0) (disk false [])).fdc.statusRegister = 0xA6 := by decide +kernel

theorem test_restore_verify_no_image :
    (after (.restore false true 0) State.reset).fdc.statusRegister = 0xF4 := by decide +kernel

/-- The head at 5 with the track register at 10, seeking to 2 with verify. -/
theorem test_seek_error :
    (afterAll [.wdr 2, .seek false true 0]
      { disk false [] with fdc := { (disk false []).fdc with currentTrack := 5, trackRegister := 10 } }).fdc.statusRegister
      = 0xB6 := by
  decide +kernel

theorem test_seek : (afterAll [.wdr 0x11, .seek false false 0] (disk false [])).fdc.currentTrack = 17 := by decide +kernel

theorem test_step_wraps :
    (afterAll [.restore false false 0, .step true false false 0] (disk false [])).fdc.trackRegister = 0xFF := by
  decide +kernel

theorem test_stepIn :
    (after (.stepIn true false false 0) (disk false [])).fdc.statusRegister = 0xA2
    ∧ (after (.stepIn true false false 0) (disk false [])).fdc.trackRegister = 1 := by
  decide +kernel

theorem test_stepOut :
    (afterAll [.stepIn true false false 0, .stepOut true false true 0] (disk false [])).fdc.statusRegister = 0xA6 := by
  decide +kernel

/-! ### Floppy controller: type II (2.9) -/

theorem test_rdsec :
    (after (.rdsec false false false false false) (disk false [(0, 0x4C)])).fdc.statusRegister = 0x83
    ∧ (afterAll [.rdsec false false false false false, .rdr] (disk false [(0, 0x4C)])).result = .byte 0x4C := by
  decide +kernel

/-- WD1773 side select: bits 3 and 1 of READ SECTOR. -/
theorem test_rdsec_side :
    (after (.rdsec false true false true false)
      { disk false [] with params := { isWD1773 := true } }).fdc.xferOffset = 5120 := by
  decide +kernel

theorem test_wrsec_protected :
    (after (.wrsec false false false false false) (disk true [])).fdc.statusRegister = 0xC0 := by decide +kernel

theorem test_wrsec_starts :
    (after (.wrsec true false false false false)
      { disk false [] with fdc := { (disk false []).fdc with currentTrack := 1, trackRegister := 1, sectorRegister := 9 } }).fdc.xferOffset
      = 14336 := by
  decide +kernel

/-! ### Floppy controller: type III and IV (2.10, 2.11) -/

theorem test_rdaddr :
    (after (.rdaddr false false false false)
      { disk false [] with fdc := { (disk false []).fdc with currentTrack := 17 } }).fdc.buf.readBytes 506 6
      = [0x11, 0x00, 0x01, 0x02, 0xA7, 0x7C] := by
  decide +kernel

theorem test_rdtrk : (after (.rdtrk false false false false) (disk false [])).fdc.statusRegister = 0xA0 := by decide +kernel

theorem test_wrtrk_no_image :
    (after (.wrtrk false false false false) State.reset).fdc.statusRegister = 0xE0 := by decide +kernel

/-- A write transfer of store 1 at offset 14848 with two bytes in, multi-sector, as program P2 has it. -/
def writing (pos : Nat) (c : Byte) : State :=
  { disk false [] with
    fdc := { (disk false []).fdc with
      commandRegister := c, statusRegister := 0x83, bufPos := pos, dataRequestFlag := true, xferOffset := 14848,
      sectorRegister := 10, currentTrack := 1, trackRegister := 1, buf := [(0, 0x22), (1, 0x22), (9, 0x77)] } }

theorem test_forceint_flushes :
    (after (.forceint true false false false) (writing 2 0xB0)).stores
      = [(1, .bytes 819200 [(14848, 0x22), (14849, 0x22)])]
    ∧ (after (.forceint true false false false) (writing 2 0xB0)).fdc.statusRegister = 0x80 := by
  decide +kernel

/-- R380 clears bit 1 of 0xA6; the vector's `0xA6 … stays 0xA6` contradicts it (notes/assumptions/26.md). -/
theorem test_cmd_forceint :
    (afterAll [.cmd 0x00, .cmd 0xD0] (disk false [])).fdc.statusRegister = 0xA4
    ∧ (afterAll [.cmd 0x00, .cmd 0xD0] (disk false [])).fdc.interruptRequestFlag = false := by
  decide +kernel

theorem test_writeCommandRegister_busy :
    (after (.writeCommandRegister 0x00) (writing 1 0xA0)).fdc = { (writing 1 0xA0).fdc with faulted := true } := by
  decide +kernel

/-! ### Floppy controller: ports (2.7) -/

theorem test_st :
    (afterAll [.restore false false 0, .st] (disk false [])).result = .byte 0xA6
    ∧ (afterAll [.restore false false 0, .st] (disk false [])).fdc.interruptRequestFlag = false := by
  decide +kernel

theorem test_readStatusRegister_hack :
    (afterAll [.restore false false 0, .readStatusRegister]
      { disk false [] with params := { busyFlagHack := true } }).result = .byte 0xA7 := by
  decide +kernel

theorem test_wtr_rtr : (afterAll [.wtr 0x05, .rtr] State.reset).result = .byte 0x05 := by decide +kernel
theorem test_wsr_rsr : (afterAll [.wsr 0x03, .rsr] State.reset).result = .byte 0x03 := by decide +kernel

theorem test_track_register_ops :
    (afterAll [.writeTrackRegister 0x2A, .readTrackRegister] State.reset).result = .byte 0x2A := by decide +kernel
theorem test_sector_register_ops :
    (afterAll [.writeSectorRegister 0x2A, .readSectorRegister] State.reset).result = .byte 0x2A := by decide +kernel

/-- The 512th byte of a single sector writes it; the data register keeps the byte. -/
theorem test_wdr_last :
    (after (.wdr 0x99) (writing 511 0xA0)).stores
      = [(1, .bytes 819200 [(14848, 0x22), (14849, 0x22), (14857, 0x77), (15359, 0x99)])]
    ∧ (after (.wdr 0x99) (writing 511 0xA0)).fdc.statusRegister = 0x80 := by
  decide +kernel

theorem test_writeDataRegister_idle :
    (after (.writeDataRegister 0x12) State.reset).fdc = { State.reset.fdc with dataRegister := 0x12 } := by
  decide +kernel

/-- A read transfer at its last byte. -/
def reading (c : Byte) (sector : Byte) : State :=
  { disk false [(5120, 0x66)] with
    fdc := { (disk false []).fdc with
      commandRegister := c, statusRegister := 0x83, bufPos := 511, dataRequestFlag := true, sectorRegister := sector,
      buf := [(506, 0x11), (511, 0x4C)] } }

theorem test_rdr_last :
    (after .rdr (reading 0x80 1)).fdc.statusRegister = 0x80 ∧ (after .rdr (reading 0x80 1)).result = .byte 0x4C
    ∧ (after .rdr (reading 0x80 1)).fdc.interruptRequestFlag = true := by
  decide +kernel

/-- A multi-sector read goes on after sector 9 and ends with RECORD NOT FOUND after sector 10. -/
theorem test_readDataRegister_multi :
    (after .readDataRegister (reading 0x90 9)).fdc.xferOffset = 4608
    ∧ (after .readDataRegister (reading 0x90 9)).fdc.statusRegister = 0x83
    ∧ (after .readDataRegister (reading 0x90 10)).fdc.statusRegister = 0x90
    ∧ (after .readDataRegister (reading 0x90 10)).fdc.sectorRegister = 11 := by
  decide +kernel

theorem test_read_address_end :
    (after .rdr (reading 0xC0 1)).fdc.sectorRegister = 17 ∧ (after .rdr (reading 0xC0 1)).fdc.statusRegister = 0xA0 := by
  decide +kernel

theorem test_peekRegister : (after (.peekRegister 2) State.reset).result = .byte 0x01 := by decide +kernel

theorem test_getHeadPosition :
    (after .getHeadPosition
      { State.reset with fdc := { State.reset.fdc with currentTrack := 0x12, currentSide := 1, sectorRegister := 0x85 } }).result
      = .word 0x1285 := by
  decide +kernel

theorem test_getInterruptRequest :
    (afterAll [.restore false false 0, .getInterruptRequest] State.reset).result = .bool true := by decide +kernel
theorem test_getDataRequest : (after .getDataRequest (writing 1 0xA0)).result = .bool true := by decide +kernel
theorem test_setSide : (after (.setSide 0x03) State.reset).fdc.currentSide = 1 := by decide +kernel
theorem test_resetFdc :
    (after .resetFdc (writing 3 0xA0)).fdc.bufPos = 512 ∧ (after .resetFdc (writing 3 0xA0)).fdc.imageFile = some 1 := by
  decide +kernel

/-- `HEAD_MAX` is a parameter: the head stops there (43_fdc_commands.md R348). -/
theorem test_headMax :
    (afterAll [.stepIn true false false 0, .stepIn true false false 0]
      { disk false [] with params := { headMax := 1 } }).fdc.currentTrack = 1 := by
  decide +kernel

theorem test_setDiskImageFile_size :
    (after (.setDiskImageFile (some 1) false 0 0 0) (disk true [])).fdc.nSectorsPerTrack = 10
    ∧ (after (.setDiskImageFile (some 1) false 0 0 0) (disk true [])).fdc.nTracks = 80 := by
  decide +kernel

theorem test_setDiskImageFile_badLength :
    (after (.setDiskImageFile (some 1) false 80 2 9) (disk true [])).result = .hostIoError .badLength := by
  decide +kernel

/-- A partial write that fails at re-attach sets status bit 5 (60_exceptions.md R502). -/
theorem test_reattach_write_error :
    (after (.setDiskImageFile none true 0 0 0) (failing (writing 2 0xA0))).fdc.statusRegister = 0xA0
    ∧ (after (.setDiskImageFile none true 0 0 0) (failing (writing 2 0xA0))).result = .none := by
  decide +kernel

theorem test_closeFdc :
    (after .closeFdc (writing 1 0xA0)).fdc.imageFile = none
    ∧ (after .closeFdc (writing 1 0xA0)).stores = [(1, .bytes 819200 [(14848, 0x22)])] := by
  decide +kernel

/-! ### Tape (2.12 to 2.14, P5, P6) -/

theorem test_openTape_create :
    (after (.openTape ⟨.native, 5, .create, 8, 44100, 4, 0, false, false⟩) (quiet State.reset)).lengthOf 5 = 4096
    ∧ ((after (.openTape ⟨.native, 5, .create, 8, 44100, 4, 0, false, false⟩) (quiet State.reset)).store 5).image.2.readBytes 8 10
        = [0x00, 0x00, 0x00, 0x04, 0x00, 0x00, 0xAC, 0x44, 0xFF, 0xFF] := by
  decide +kernel

theorem test_openTape_legacy :
    (tapeOf tapDeck).tapeLength = 6 ∧ (tapeOf tapDeck).sampleRate = 55420 := by
  decide +kernel

/-- The C16 tape of P6 plays 0 0 1 0 0 0 and then stays at its end. -/
theorem test_runOneSample_legacy :
    (tapeOf (afterAll [.runOneSample, .runOneSample, .runOneSample] tapDeck)).inputState = 1
    ∧ (tapeOf (afterAll [.runOneSample, .runOneSample, .runOneSample, .runOneSample] tapDeck)).inputState = 0
    ∧ (tapeOf (afterAll [.runOneSample, .runOneSample, .runOneSample, .runOneSample, .runOneSample, .runOneSample,
        .runOneSample] tapDeck)).tapePosition = 6 := by
  decide +kernel

/-- The half-waves of the vectors of 2.14. -/
theorem test_halfWaves :
    halfWaves .new [0x04, 0x02, 0x00, 0x30, 0x00, 0x00] = [32, 16, 48]
    ∧ halfWaves .old [0x04, 0x03] = [16, 16, 12, 12] ∧ halfWaves .new [0x04, 0x00, 0x05] = [32]
    ∧ (List.range 8).map (fun i => (cursorAt .old [0x10] i).level)
        = [false, false, false, false, true, true, true, true] := by
  decide +kernel

/-- P5: samples 3, F, 8, 0 at four bits a sample, played at eight; a load that fails gives 0 and no outcome (44_tape.md R432). -/
theorem test_runOneSample_native :
    (tapeOf (afterAll [.play, .runOneSample] (nativeDeck 4 4 0 [] none [] false))).inputState = 0x30
    ∧ (tapeOf (afterAll [.play, .runOneSample, .runOneSample] (nativeDeck 4 4 0 [] none [] false))).inputState = 0xF0
    ∧ (fun s : State => ((tapeOf s).inputState, s.result))
        (after .runOneSample (failing (after .play (nativeDeck 4 4 0 [] none [] false)))) = (0x00, .none) := by
  decide +kernel

/-- Recording over a cue point deletes it, and a stop writes the block: samples A, 5 in the byte A5. -/
theorem test_record_and_stop :
    (tapeOf (afterAll [.record, .setOutputSignal 0xA7, .runOneSample] (nativeDeck 4 0 0 [0] none [] false))).cuePoints = []
    ∧ (afterAll [.record, .setOutputSignal 0xA7, .runOneSample, .setOutputSignal 0x5F, .runOneSample, .stop]
        (nativeDeck 4 0 0 [] none [] false)).byteAt 5 4096 = 0xA5 := by
  decide +kernel

theorem test_packing :
    packSamples .msbFirst 1 [1, 0, 1, 1, 0, 0, 0, 0] = [0xB0] ∧ packSamples .msbFirst 2 [3, 0, 1, 2] = [0xC6]
    ∧ packSamples .msbFirst 4 [0xA, 0x5, 0xC] = [0xA5, 0xC0] := by
  decide +kernel

theorem test_requantize :
    requantize 8 4 0xB7 = 0xB ∧ requantize 4 8 0xB = 0xB0 ∧ requantize 2 1 3 = 1 ∧ requantize 1 2 1 = 2 := by
  decide +kernel

theorem test_play_record_refused :
    (tapeOf (after .record tapDeck)).isRecordOn = false ∧ (tapeOf (after .play tapDeck)).isPlaybackOn = true := by
  decide +kernel

theorem test_motor_off_flushes :
    (after (.setIsMotorOn false) (nativeDeck 8 1 1 [] (some 0) [(0, 0xB7)] true)).byteAt 5 4096 = 0xB7 := by
  decide +kernel

theorem test_getInputSignal :
    (afterAll [.play, .runOneSample, .getInputSignal] (nativeDeck 4 4 1 [] none [] false)).result = .byte 0xF0 := by
  decide +kernel

theorem test_setOutputSignal :
    (tapeOf (after (.setOutputSignal 0xFF) (onDeck (fun t => { t with requestedBitsPerSample := 2 })
      (nativeDeck 4 4 0 [] none [] false)))).outputState = 3 := by
  decide +kernel

theorem test_tapeSeek :
    (tapeOf (after (.tapeSeek (5 / 2)) (nativeDeck 8 441000 0 [] none [] false))).tapePosition = 110250
    ∧ (tapeOf (after (.tapeSeek (-1)) (nativeDeck 8 441000 7 [] none [] false))).tapePosition = 0
    ∧ (tapeOf (after (.tapeSeek 20) (nativeDeck 8 441000 0 [] none [] false))).tapePosition = 441000 := by
  decide +kernel

theorem test_seekToCuePoint :
    (tapeOf (after (.seekToCuePoint true 1) (nativeDeck 8 441000 1000 [1000, 5000] none [] false))).tapePosition = 5000
    ∧ (tapeOf (after (.seekToCuePoint true (1 / 20)) (nativeDeck 8 441000 1000 [1000, 5000] none [] false))).tapePosition
        = 3205
    ∧ (tapeOf (after (.seekToCuePoint false 1) (nativeDeck 8 441000 1000 [1000, 5000] none [] false))).tapePosition = 0 := by
  decide +kernel

theorem test_addCuePoint :
    (tapeOf (after .addCuePoint (nativeDeck 8 441000 3000 [1000, 5000] none [] false))).cuePoints = [1000, 3000, 5000]
    ∧ (after .addCuePoint (nativeDeck 8 441000 5000 [1000, 5000] none [] false)).result = .bool true := by
  decide +kernel

theorem test_deleteNearestCuePoint :
    (tapeOf (after .deleteNearestCuePoint (nativeDeck 8 441000 2000 [1000, 3000] none [] false))).cuePoints = [3000]
    ∧ (after .deleteNearestCuePoint (nativeDeck 8 441000 2000 [] none [] false)).result = .bool false := by
  decide +kernel

theorem test_deleteAllCuePoints :
    (tapeOf (after .deleteAllCuePoints (nativeDeck 8 9 2 [1, 3] none [] false))).cuePoints = []
    ∧ (tapeOf (after .deleteAllCuePoints (nativeDeck 8 9 2 [] none [] false))).cueDirty = false := by
  decide +kernel

theorem test_getTapeInfo :
    (after .getTapeInfo (nativeDeck 8 9 2 [1, 3] none [] false)).result
      = .tapeInfo 2 9 44100 false false true [1, 3] := by
  decide +kernel

theorem test_closeTape :
    (after .closeTape (nativeDeck 8 1 1 [] (some 0) [(0, 0xB7)] true)).tape = none
    ∧ (after .closeTape (nativeDeck 8 1 1 [] (some 0) [(0, 0xB7)] true)).byteAt 5 4096 = 0xB7 := by
  decide +kernel

/-- A SoundFile tape in channel 0 of a mono container: full scale up and down at one bit (44_tape.md R451). -/
def soundHost : State :=
  quiet { State.reset with stores := [(7, .container { nChannels := 1, sampleRate := 8, frames := [[0], [-1 / 2]] })] }

theorem test_runOneSample_sound :
    (tapeOf (afterAll [.openTape ⟨.soundFile, 7, .readOnly, 1, 0, 0, 0, false, false⟩, .play, .setIsMotorOn true,
        .runOneSample] soundHost)).inputState = 1
    ∧ (tapeOf (afterAll [.openTape ⟨.soundFile, 7, .readOnly, 1, 0, 0, 0, true, true⟩, .play, .setIsMotorOn true,
        .runOneSample, .runOneSample] soundHost)).inputState = 1 := by
  decide +kernel

/-! ### Witnesses

For each statement with hypotheses, states and operands that meet them together, each clause at a boundary value. -/

/-- The state with one pending call. -/
def calling (c : HostCall) (s : State) : State := { s with calls := [c] }

theorem step_calling {c : HostCall} {i : Instr} {s : State} (h : decode c = .ok i) :
    step (calling c s) = exec i { s with calls := [] } := by
  simp only [step, calling, h]

theorem quiet_noFailure (s : State) : (quiet s).noFailure 1 ∧ (quiet s).noFailure 2 :=
  ⟨⟨rfl, trivial⟩, ⟨rfl, rfl, trivial⟩⟩

theorem failing_nextFails (s : State) : (failing s).nextFails := rfl

/-- A state with no script, such as reset: its draws are the free ones, and one of the two definitions holds of the next. -/
theorem free_draws (s : State) (h : s.ioScript = []) :
    (s.noFailure 1 ↔ Config.hostIoFails s.ioCount = false) ∧ (s.nextFails ↔ Config.hostIoFails s.ioCount = true) := by
  unfold State.nextFails State.noFailure State.noFailure State.ioFails
  rw [h]
  exact ⟨⟨fun x => x.1, fun x => ⟨x, trivial⟩⟩, Iff.rfl⟩

theorem witness_DecodeEncode :
    Instr.wellFormed (.readTrack (-2147483648)) = true ∧ Instr.wellFormed (.gcrReadByte 4294967295) = true
    ∧ Instr.wellFormed (.setImageFile none false) = true
    ∧ Instr.wellFormed (.tapeSeek (-9223372036854775808)) = true := by
  decide +kernel

/-- The ids at the edges of the gaps of 30_encoding.md R170. -/
theorem witness_UnknownOperationRefused :
    ∀ id ∈ ([0x00, 0x05, 0x0F, 0x1A, 0x1F, 0x3F, 0xFF] : List Byte),
      (id.toNat = 0 ∨ 5 ≤ id.toNat ∧ id.toNat ≤ 0x0F ∨ 0x1A ≤ id.toNat ∧ id.toNat ≤ 0x1F ∨ 0x3F ≤ id.toNat)
        ∧ (calling ⟨.hostOp, [id, 0x00]⟩ State.reset).calls = [⟨.hostOp, id :: [0x00]⟩] := by
  decide

theorem witness_StepRunsDecoded :
    (calling ⟨.fdcPort, [0b110]⟩ State.reset).calls = ⟨.fdcPort, [0b110]⟩ :: []
    ∧ decode ⟨.fdcPort, [0b110]⟩ = .ok .rdr ∧ decode ⟨.fdcPort, []⟩ = .error .emptyCall
    ∧ State.reset.calls = [] := by
  decide

/-- One instruction of each sub-block runs, and none of them is in another one. -/
theorem witness_SubBlocksShareNoState :
    (∃ t, exec (.gcrWriteByte 0 0x55) d64Bare = .next t) ∧ (∃ t, exec (.wtr 0x05) State.reset = .next t)
    ∧ (∃ t, exec .play tapDeck = .next t)
    ∧ subBlock (.wtr 0x05) ≠ .tbm ∧ subBlock .play ≠ .fdc ∧ subBlock (.gcrWriteByte 0 0x55) ≠ .tape :=
  ⟨⟨_, by rw [exec, execGcrWriteByte]; rfl⟩, ⟨_, by rw [exec, execWtr]⟩, ⟨_, by rw [exec, execPlay]; rfl⟩, by decide⟩

theorem witness_NeverAnOutcome :
    mayRaise (.readTrack 36) = false ∧ mayRaise .closeTape = false ∧ (∃ t, exec (.readTrack 36) d64Bare = .next t) :=
  ⟨rfl, rfl, _, by rw [exec, execReadTrack]⟩

theorem witness_StoresOnlyByWriters :
    mayWriteStore (.readTrack 18) = false ∧ isCommandWrite (.restore false false 0) = true
    ∧ partialWrite (disk false []).fdc = false ∧ partialWrite (writing 0 0xA0).fdc = false
    ∧ ∃ t, exec (.restore false false 0) (disk false []) = .next t :=
  ⟨rfl, rfl, by decide, by decide, _, by rw [exec, execRestore]⟩

theorem witness_NoSyncInData : 3 + 1 < (encodeGroups [0xFF, 0xFF, 0xFF, 0xFF]).length := by decide

/-- A full track in 7692 bytes, and the operands on either side of the domain of R215. -/
theorem witness_GcrTrack :
    (21 ≤ 21 ∧ 7692 ≤ 8192
      ∧ 21 * (345 + State.reset.params.headerGap + tailGap State.reset.params 21) ≤ 7692)
    ∧ (20 < 21 ∧ 362 < 345 + State.reset.params.headerGap + tailGap State.reset.params 21) ∧ (21 ≤ 21 ∧ 8192 ≤ 8192) ∧ (21 < 22 ∨ 8192 < 0)
    ∧ (21 < 0 ∨ 8192 < 8193) := by
  decide

theorem witness_SectorLayouts : (List.replicate 256 (0x5A : Byte)).length = 256 := List.length_replicate

theorem witness_TbmPorts :
    trackSize {} State.reset.tbm.currentTrack.toNat = 0 ∧ trackSize {} d64Bare.tbm.currentTrack.toNat ≠ 0
    ∧ 23 < 24 ∧ 24 ≤ 24 := by
  decide

/-- A 35-track image with an error table, its store exactly as long as it must be. -/
def d64Errors : State :=
  quiet { d64Bare with
    stores := [(4, .bytes 175531 [])],
    tbm := { d64Bare.tbm with hasErrorTable := true, currentTrack := 35, readOnly := false, trackDirtyFlag := true } }

/-- The default tables are ones the spec admits. -/
theorem default_ParamsOk : ParamsOk {} := by
  refine ⟨by unfold GeometryRowsOk; decide, fun t h1 h2 => ?_, by decide, fun t h1 h2 => ?_, fun t h1 h2 => ?_⟩
  all_goals
    revert h1 h2
    revert t
    intro t h1 h2
    interval_cases t <;> decide

theorem witness_ReadTrack :
    ParamsOk d64Errors.params ∧ (-1 : Int) = -1 ∧ d64Errors.tbm.currentTrack.toNat = 35 ∧ d64Errors.tbm.imageFile = some 4 ∧ 1 ≤ 35
    ∧ 35 ≤ d64Errors.tbm.nTracks.toNat ∧ trackOffset {} 35 + 256 * sectorsPerTrack {} 35 ≤ d64Errors.lengthOf 4
    ∧ (d64Errors.tbm.hasErrorTable = true →
        errBase {} d64Errors.tbm + trackOffset {} 35 / 256 + sectorsPerTrack {} 35 ≤ d64Errors.lengthOf 4)
    ∧ d64Errors.noFailure 2 :=
  ⟨default_ParamsOk, rfl, by decide, rfl, by decide, by decide, by decide, by decide, (quiet_noFailure _).2⟩

/-- No image, a track number on either side of the image, a store one byte too short, an access that fails. -/
theorem witness_ReadTrack_fails :
    State.reset.tbm.imageFile = none ∧ (0 : Int) < 1 ∧ (d64Bare.tbm.nTracks.toNat : Int) < 36
    ∧ ({ d64Bare with stores := [(4, .bytes 174847 [])] } : State).lengthOf 4
        < trackOffset {} 35 + 256 * sectorsPerTrack {} 35
    ∧ (1 : Int) ≤ 35 ∧ (35 : Int) ≤ (d64Bare.tbm.nTracks.toNat : Int) ∧ (failing d64Bare).nextFails
    ∧ d64Errors.tbm.hasErrorTable = true
    ∧ ({ d64Errors with stores := [(4, .bytes 175530 [])] } : State).lengthOf 4
        < errBase {} d64Errors.tbm + trackOffset {} 35 / 256 + sectorsPerTrack {} 35
    ∧ ({ d64Errors with ioScript := [false, true] } : State).ioNext.nextFails :=
  ⟨rfl, by decide, by decide, by decide, by decide, by decide, failing_nextFails _, rfl, by decide, rfl⟩

theorem witness_FlushTrackKeeps :
    (34 : Int) ≠ -1 ∧ (34 : Int) ≠ d64Errors.tbm.currentTrack.toNat ∧ d64Bare.tbm.trackDirtyFlag = false
    ∧ (35 : Int) = d64Errors.tbm.currentTrack.toNat ∧ d64Errors.tbm.trackDirtyFlag = true
    ∧ ({ d64Errors.tbm with readOnly := true } : Tbm).readOnly = true
    ∧ ({ d64Errors.tbm with nTracks := 34 } : Tbm).nTracks.toNat < d64Errors.tbm.currentTrack.toNat := by
  decide

/-- The dirty track of a writable image with one good sector in its GCR buffer. -/
def d64Dirty : State :=
  after (.gcrEncodeTrack 35 1 400) d64Errors

theorem witness_FlushTrackWrites :
    (-1 : Int) = -1 ∧ d64Dirty.tbm.trackDirtyFlag = true ∧ d64Dirty.tbm.readOnly = false
    ∧ d64Dirty.tbm.imageFile = some 4 ∧ d64Dirty.tbm.currentTrack.toNat = 35 ∧ 35 ≤ d64Dirty.tbm.nTracks.toNat
    ∧ (decodeTrack 35 (sectorsPerTrack {} 35) (trackSize {} 35) d64Errors.tbm).1 = 0 :=
  ⟨rfl, by decide +kernel, by decide +kernel, by decide +kernel, by decide +kernel, by decide +kernel,
    decodeTrack_nil rfl _ _ _⟩

theorem witness_FlushTrackWrites_recovers : (decodeTrack 35 17 6250 d64Dirty.tbm).1 ≠ 0 := by
  have h : (scanTurn (circular (d64Dirty.tbm.gcr.readBytes 0 6250).toArray 6250 0) 6250 35 17
      (Scan.start 17 d64Dirty.tbm.d64)).map (fun sc => sc.count) = some 1 := by decide +kernel
  obtain ⟨sc, h1, h2⟩ := Option.map_eq_some_iff.1 h
  exact decodeTrack_pos _ _ _ _ sc (by decide) (by decide) (by decide +kernel) h1 (by omega)

theorem witness_FlushTrackWrites_draws :
    (quiet d64Dirty).noFailure 2 ∧ (failing d64Dirty).nextFails
    ∧ ({ d64Dirty with ioScript := [false, true] } : State).noFailure 1
    ∧ ({ d64Dirty with ioScript := [false, true] } : State).ioNext.nextFails :=
  ⟨(quiet_noFailure _).2, failing_nextFails _, ⟨rfl, trivial⟩, rfl⟩

theorem witness_SetCurrentTrack :
    (min (max 18 1) 42 : Int) = d64Bare.tbm.currentTrack.toNat ∧ (min (max 43 1) 42 : Int) ≠ d64Bare.tbm.currentTrack.toNat
    ∧ (min (max 0 1) 42 : Int) ≠ d64Bare.tbm.currentTrack.toNat := by
  decide

theorem witness_DiskIdRotates :
    (∃ t, exec (.setImageFile none false) State.reset = .next t)
    ∧ ∃ u, exec (.setImageFile (some 4) false) (after (.setImageFile none false) State.reset) = .next u :=
  ⟨⟨_, by rw [exec, execSetImageFile]⟩, _, by rw [exec, execSetImageFile]⟩

/-- A dirty image whose flush fails, one whose flush is good, and a load of track 18 that is good and one that fails, at either
access. The tracks of 400 bytes keep the flush short. -/
theorem witness_SetImageFile_flush :
    let short : State := { d64Dirty with params := { trackSizes := List.replicate 42 400 } }
    short.tbm.imageFile ≠ none ∧ (after (.flushTrack (-1)) (failing short)).result = .hostIoError .write
    ∧ (after (.flushTrack (-1)) short).result = .bool true
    ∧ (after (.readTrack (-1)) d64Bare).result = .bool true
    ∧ (after (.readTrack (-1)) (failing d64Bare)).result = .bool false
    ∧ (failing d64Host).nextFails ∧ ({ d64Host with ioScript := [false, true] } : State).ioNext.nextFails :=
  ⟨by decide +kernel, by decide +kernel, by decide +kernel, by decide +kernel, by decide +kernel, rfl, rfl⟩

/-- The shortest and the longest image of either layout, and a length between two of them. -/
theorem witness_SetImageFile :
    ParamsOk d64Host.params ∧ State.reset.tbm.imageFile = none ∧ d64Bare.tbm.trackDirtyFlag = false
    ∧ d64Host.lengthOf 4 = (683 + 17 * 0) * (if false then 257 else 256)
    ∧ ({ d64Host with stores := [(4, .bytes 206114 [])] } : State).lengthOf 4
        = (683 + 17 * 7) * (if true then 257 else 256)
    ∧ d64Host.noFailure 2
    ∧ ∀ k, k ≤ 7 → (disk false []).lengthOf 1 ≠ (683 + 17 * k) * 256 ∧ (disk false []).lengthOf 1 ≠ (683 + 17 * k) * 257 :=
  ⟨default_ParamsOk, rfl, rfl, by decide, by decide, (quiet_noFailure _).2, by decide⟩

theorem witness_StatusRead :
    (disk false []).params.busyFlagHack = false
    ∧ ({ disk false [] with params := { busyFlagHack := true } } : State).params.busyFlagHack = true := by
  decide

theorem witness_TypeICommands :
    512 ≤ (disk false []).fdc.bufPos
    ∧ (Instr.restore true true 3 = Instr.restore true true 3
        ∧ { (disk false []).fdc.taken (restoreByte true true 3) with
              currentTrack := 0, trackRegister := 0, stepDirIn := false }
          = { (disk false []).fdc.taken (restoreByte true true 3) with
              currentTrack := 0, trackRegister := 0, stepDirIn := false })
    ∧ (disk false []).params.indexBit = .attached := by
  decide

/-- The last sector of the disk, whose end is the end of the store. -/
def lastSector : State :=
  { disk false [] with
    fdc := { (disk false []).fdc with currentTrack := 79, trackRegister := 79, currentSide := 1, sectorRegister := 10 } }

theorem witness_ReadSector :
    512 ≤ lastSector.fdc.bufPos ∧ lastSector.fdc.imageFile = some 1
    ∧ selectedSide lastSector.params lastSector.fdc false true = 1
    ∧ (PositionOk lastSector.fdc 1 10 ∧ secOff lastSector.fdc 1 10 + 512 ≤ lastSector.lengthOf 1)
    ∧ lastSector.noFailure 1 ∧ (failing lastSector).nextFails
    ∧ ({ lastSector with stores := [(1, .bytes 819199 [])] } : State).lengthOf 1 < secOff lastSector.fdc 1 10 + 512
    ∧ ¬ PositionOk lastSector.fdc 1 11 ∧ ¬ PositionOk lastSector.fdc 1 0 :=
  ⟨by decide, rfl, by decide, by unfold PositionOk; decide, ⟨rfl, trivial⟩, failing_nextFails _, by decide,
    by unfold PositionOk; decide, by unfold PositionOk; decide⟩

theorem witness_WriteSector :
    State.reset.fdc.imageFile = none ∧ 512 ≤ State.reset.fdc.bufPos ∧ (disk true []).fdc.readOnly = true
    ∧ lastSector.fdc.imageFile ≠ none ∧ lastSector.fdc.readOnly = false
    ∧ selectedSide lastSector.params lastSector.fdc true false = 1 := by
  decide

theorem witness_TypeIIICommands :
    512 ≤ lastSector.fdc.bufPos ∧ lastSector.fdc.imageFile ≠ none
    ∧ lastSector.fdc.currentTrack.toNat < lastSector.fdc.nTracks.toNat
    ∧ lastSector.fdc.currentSide.toNat < lastSector.fdc.nSides.toNat
    ∧ ({ lastSector.fdc with nTracks := 79 } : Fdc).nTracks.toNat ≤ lastSector.fdc.currentTrack.toNat
    ∧ ({ lastSector.fdc with nSides := 1 } : Fdc).nSides.toNat ≤ lastSector.fdc.currentSide.toNat
    ∧ State.reset.fdc.imageFile = none := by
  decide

theorem witness_ForceInterrupt :
    partialWrite (writing 0 0xA0).fdc = false ∧ partialWrite (writing 1 0xA0).fdc = true
    ∧ partialWrite (writing 511 0xB0).fdc = true ∧ partialWrite (writing 512 0xA0).fdc = false
    ∧ (writing 1 0xA0).fdc.imageFile = some 1 := by
  decide

theorem witness_writing_draws : (writing 511 0xA0).noFailure 1 ∧ (failing (writing 511 0xA0)).nextFails :=
  ⟨⟨rfl, trivial⟩, failing_nextFails _⟩

theorem witness_CommandWhileBusy :
    (writing 511 0xA0).fdc.bufPos < 512 ∧ (0x00 : Byte) &&& 0xF0 ≠ 0xD0 ∧ (writing 511 0xA0).params.cmdWhileBusy = .fault
    ∧ ({ writing 511 0xA0 with params := { cmdWhileBusy := .abortAndExecute } } : State).params.cmdWhileBusy
        = .abortAndExecute
    ∧ (after (.cmd 0x00) (writing 511 0xA0)).fdc.faulted = true ∧ Instr.closeFdc ≠ .resetFdc
    ∧ ∃ t, exec .closeFdc (after (.cmd 0x00) (writing 511 0xA0)) = .next t :=
  ⟨by decide, by decide, rfl, rfl, by decide +kernel, by decide, _, by rw [exec, execCloseFdc]⟩

theorem witness_ReadData :
    (reading 0x80 1).fdc.bufPos = 511 ∧ transferKind 0x80 = some .sectorRead ∧ (0x80 : Byte).getLsbD 4 = false
    ∧ transferKind 0xC0 = some .idRead
    ∧ ({ (reading 0x80 1).fdc with bufPos := 510 } : Fdc).bufPos < 511
    ∧ ¬ (State.reset.fdc.bufPos < 512
        ∧ (transferKind State.reset.fdc.commandRegister = some .sectorRead
          ∨ transferKind State.reset.fdc.commandRegister = some .idRead)) := by
  decide

theorem witness_WriteData :
    ¬ (State.reset.fdc.bufPos < 512 ∧ transferKind State.reset.fdc.commandRegister = some .sectorWrite)
    ∧ (writing 510 0xA0).fdc.bufPos < 511 ∧ transferKind (writing 510 0xA0).fdc.commandRegister = some .sectorWrite
    ∧ (writing 511 0xA0).fdc.bufPos = 511 ∧ (writing 511 0xA0).fdc.imageFile = some 1
    ∧ (writing 511 0xA0).fdc.commandRegister.getLsbD 4 = false := by
  decide

theorem witness_MultiSectorTransfers :
    (reading 0x90 9).fdc.bufPos = 511 ∧ transferKind (reading 0x90 9).fdc.commandRegister = some .sectorRead
    ∧ (reading 0x90 9).fdc.commandRegister.getLsbD 4 = true ∧ (reading 0x90 9).fdc.imageFile = some 1
    ∧ selectedSide (reading 0x90 9).params (reading 0x90 9).fdc false false = 0
    ∧ PositionOk (reading 0x90 9).fdc 0 ((reading 0x90 9).fdc.sectorRegister + 1)
    ∧ secOff (reading 0x90 9).fdc 0 10 + 512 ≤ (reading 0x90 9).lengthOf 1
    ∧ (reading 0x90 9).noFailure 1
    ∧ ¬ PositionOk (reading 0x90 10).fdc 0 ((reading 0x90 10).fdc.sectorRegister + 1) :=
  ⟨rfl, by decide, by decide, rfl, by decide, by unfold PositionOk; decide, by decide, ⟨rfl, trivial⟩,
    by unfold PositionOk; decide⟩

/-- A multi-sector write at its last byte with a next sector, with none, and on an image turned read-only; and the failed
read of the next sector of a multi-sector read. -/
theorem witness_MultiSectorTransfers_write :
    let s := { writing 511 0xB0 with fdc := { (writing 511 0xB0).fdc with sectorRegister := 9 } }
    s.fdc.bufPos = 511 ∧ s.fdc.commandRegister.getLsbD 4 = true ∧ s.fdc.imageFile = some 1
    ∧ transferKind s.fdc.commandRegister = some .sectorWrite ∧ s.noFailure 1 ∧ s.fdc.readOnly = false
    ∧ selectedSide s.params s.fdc false false = 0 ∧ PositionOk s.fdc 0 (s.fdc.sectorRegister + 1)
    ∧ ¬ PositionOk (writing 511 0xB0).fdc 0 ((writing 511 0xB0).fdc.sectorRegister + 1)
    ∧ ({ s.fdc with readOnly := true } : Fdc).readOnly = true ∧ (failing (reading 0x90 9)).nextFails :=
  ⟨rfl, by decide, rfl, by decide, ⟨rfl, trivial⟩, rfl, by decide, by unfold PositionOk; decide,
    by unfold PositionOk; decide, rfl, rfl⟩

theorem witness_DiskAttachExplicit :
    512 ≤ (disk false []).fdc.bufPos ∧ 0 < 80 ∧ 0 < 2 ∧ 0 < 10 ∧ (disk false []).lengthOf 1 = 80 * 2 * 10 * 512
    ∧ (disk false []).lengthOf 1 ≠ 255 * 2 * 255 * 512 ∧ (2 < 3 ∨ 255 < 0 ∨ 255 < 0) ∧ 255 < 256 := by
  decide

/-- A store whose boot sector says 512 bytes a sector, 9 sectors a track, 2 heads, 1440 sectors. -/
def bootDisk : State :=
  quiet { State.reset with
    stores := [(1, .bytes 737280 [(12, 2), (19, 0xA0), (20, 5), (24, 9), (26, 2)])] }

theorem witness_DiskAttachInferred :
    512 ≤ bootDisk.fdc.bufPos ∧ 512 ≤ bootDisk.lengthOf 1 ∧ bootDisk.noFailure 1 ∧ (failing bootDisk).nextFails
    ∧ (let word : Nat → Nat := fun a => (bootDisk.byteAt 1 a).toNat + 256 * (bootDisk.byteAt 1 (a + 1)).toNat
      word 11 = 512 ∧ 1 ≤ word 24 ∧ word 24 ≤ 255 ∧ (word 26 = 1 ∨ word 26 = 2) ∧ 0 < word 19
        ∧ word 19 % (word 24 * word 26) = 0 ∧ 1 ≤ word 19 / (word 24 * word 26)
        ∧ word 19 / (word 24 * word 26) ≤ 255 ∧ bootDisk.lengthOf 1 = word 19 / (word 24 * word 26) * word 26 * word 24 * 512)
    ∧ ({ bootDisk with stores := [(1, .bytes 511 [])] } : State).lengthOf 1 < 512
    ∧ ¬ ((disk false []).byteAt 1 11).toNat + 256 * ((disk false []).byteAt 1 12).toNat = 512
    ∧ (defaultGeometryBySize.find? fun r => r.length == 819200) = some ⟨819200, 80, 2, 10⟩
    ∧ (defaultGeometryBySize.find? fun r => r.length == 511) = none :=
  ⟨by decide, by decide, (quiet_noFailure _).1, failing_nextFails _, by decide, by decide, by decide, by decide, by decide⟩

theorem witness_DiskDetach :
    512 ≤ State.reset.fdc.bufPos ∧ (writing 0 0xA0).fdc.bufPos < 512 ∧ partialWrite (writing 0 0xA0).fdc = false
    ∧ partialWrite (writing 511 0xA0).fdc = true ∧ (writing 511 0xA0).fdc.imageFile = some 1 := by
  decide

/-- A write transfer at its last byte, with that byte pending: the invariants hold and the step runs. -/
theorem witness_FdcInvariants :
    FdcTransferOk (writing 511 0xA0).fdc ∧ FdcGeometryOk (writing 511 0xA0).fdc ∧ FdcWriteOk (writing 511 0xA0).fdc
    ∧ FdcHeadOk (writing 511 0xA0).params (writing 511 0xA0).fdc ∧ GeometryRowsOk (writing 511 0xA0).params
    ∧ ∃ t, step (calling ⟨.fdcPort, [0b111, 0x99]⟩ (writing 511 0xA0)) = .next t :=
  ⟨by unfold FdcTransferOk; decide, by unfold FdcGeometryOk; decide, by unfold FdcWriteOk; decide,
    by unfold FdcHeadOk; decide, default_ParamsOk.1, _, by rw [step_calling (i := .wdr 0x99) (by decide), exec, execWdr]⟩

theorem witness_TbmInvariant :
    TbmOk (calling ⟨.hostOp, [0x12, 0xFF, 0xFF, 0xFF, 0xFF]⟩ d64Errors).tbm
    ∧ (after (.gcrWriteByte 0 0x55) d64Bare).tbm.trackDirtyFlag = true
    ∧ ∃ t, step (calling ⟨.hostOp, [0x12, 0xFF, 0xFF, 0xFF, 0xFF]⟩ d64Errors) = .next t :=
  ⟨by unfold TbmOk; decide, by decide +kernel, _, by rw [step_calling (i := .flushTrack (-1)) (by decide), exec, execFlushTrack]⟩

/-- A Native tape with a resident dirty block whose last sample is the position. -/
def resident : State := nativeDeck 4 4096 4095 [0, 4095] (some 0) [(4095, 0x0F)] true

theorem resident_tape : resident.tape = some (tapeOf resident) := rfl

theorem witness_TapeTransport :
    State.reset.tape = none ∧ resident.tape = some (tapeOf resident) ∧ (tapeOf resident).mode ≠ .readOnly
    ∧ (tapeOf resident).isLegacy = false ∧ tapDeck.tape = some (tapeOf tapDeck) ∧ (tapeOf tapDeck).mode = .readOnly
    ∧ (tapeOf tapDeck).isLegacy = true :=
  ⟨rfl, rfl, by decide, rfl, by decide +kernel, by decide +kernel, by decide +kernel⟩

theorem witness_StopMotorSeek :
    (tapeOf resident).isMotorOn = true
    ∧ (tapeOf (onDeck (fun t => { t with isMotorOn := false }) resident)).isMotorOn = false
    ∧ (tapeOf resident).isLegacy = false ∧ ∃ l, (tapeOf tapDeck).medium = .legacyTap l :=
  ⟨rfl, rfl, rfl, _, rfl⟩

/-- Cue points at the very edges of a whole skip, forward and backward, and a skip that reaches none. -/
theorem witness_SeekToCuePoint :
    let t := tapeOf (nativeDeck 8 441000 44100 [0, 88200] none [] false)
    max ((1 : Rat) * (t.sampleRate : Rat)).floor 0 = 44100 ∧ (88200 ∈ t.cuePoints ∧ (44100 : Int) < 88200 ∧ (88200 : Int) ≤ 44100 + 44100)
    ∧ (0 ∈ t.cuePoints ∧ (44100 : Int) - 44100 ≤ 0 ∧ (0 : Int) < 44100)
    ∧ ∀ c ∈ t.cuePoints, ¬ ((44100 : Int) < c ∧ (c : Int) ≤ 44100 + 44099) := by
  decide +kernel

theorem witness_FlushTape :
    (tapeOf resident).medium = .native { blockBuf := [(4095, 0x0F)], blockIndex := some 0, blockDirty := true }
    ∧ (tapeOf resident).cuePoints.length ≤ 1019 ∧ (List.range 1019).length ≤ 1019 ∧ resident.noFailure 2
    ∧ (failing resident).nextFails ∧ 0 < blockCount (tapeOf resident) 0
    ∧ (tapeOf (onDeck (fun t => { t with cueDirty := true }) resident)).cueDirty = true :=
  ⟨rfl, by decide, by simp, (quiet_noFailure _).2, failing_nextFails _, by decide, rfl⟩

/-- The cue write alone pending and failing; and, beside a dirty block whose write is good, failing second. -/
theorem witness_FlushTape_cues :
    let cues := onDeck (fun t => { t with cueDirty := true })
    let alone := failing (cues (nativeDeck 8 2 0 [0, 1] (some 0) [] false))
    let second := { cues resident with ioScript := [false, true] }
    (tapeOf alone).medium = .native { blockBuf := [], blockIndex := some 0, blockDirty := false }
    ∧ (tapeOf alone).cueDirty = true ∧ (tapeOf alone).mode ≠ .readOnly ∧ (tapeOf alone).cuePoints.length ≤ 1019
    ∧ alone.nextFails
    ∧ (tapeOf second).cueDirty = true ∧ second.noFailure 1 ∧ second.ioNext.nextFails :=
  ⟨rfl, rfl, by decide, by decide, failing_nextFails _, rfl, ⟨rfl, trivial⟩, rfl⟩

/-- A SoundFile tape of store 7 with `len` frames, block 0 resident and dirty, at `pos`. -/
def soundDeck (len pos : Nat) : State :=
  let f : SoundTape :=
    { channel := 0, invert := false, filterOn := false, nChannels := 1, frameBuf := List.replicate 1024 [1 / 2],
      frameBlockIndex := some 0, frameBlockDirty := true }
  quiet { State.reset with
    stores := [(7, .container { nChannels := 1, sampleRate := 8, frames := List.replicate 4 [-1] })],
    tape := some
      { openingTape ⟨.soundFile, 7, .readWrite, 8, 8, 8, 0, false, false⟩ with
        tapeLength := len, tapePosition := pos, sampleRate := 8, isMotorOn := true, isPlaybackOn := true,
        outputState := 0xFF, medium := .soundFile f } }

theorem witness_FlushTape_formats :
    (∃ l, (tapeOf tapDeck).medium = .legacyTap l)
    ∧ (∃ f, (tapeOf (soundDeck 1024 1023)).medium = .soundFile f ∧ f.frameBlockDirty = true
        ∧ f.frameBlockIndex.isSome = true ∧ f.frameBuf.length = 1024
        ∧ 0 < min 1024 ((tapeOf (soundDeck 1024 1023)).tapeLength - 1024 * f.frameBlockIndex.getD 0))
    ∧ (soundDeck 1024 1023).noFailure 1 ∧ (failing (soundDeck 1024 1023)).nextFails :=
  ⟨⟨_, rfl⟩, ⟨_, rfl, rfl, rfl, List.length_replicate, by decide⟩, ⟨rfl, trivial⟩, rfl⟩

theorem witness_Tick :
    (tapeOf State.reset).isMotorOn = false
    ∧ (tapeOf resident).isRecordOn = false ∧ (tapeOf resident).isPlaybackOn = false
    ∧ (tapeOf (after .play (nativeDeck 4 4 4 [] none [] false))).tapeLength
        ≤ (tapeOf (after .play (nativeDeck 4 4 4 [] none [] false))).tapePosition
    ∧ (tapeOf (after .record (nativeDeck 4 0xFFFFFFFE 0xFFFFFFFE [] none [] false))).isRecordOn = true
    ∧ 0xFFFFFFFE ≤ (tapeOf (after .record (nativeDeck 4 0xFFFFFFFE 0xFFFFFFFE [] none [] false))).tapePosition
    ∧ (tapeOf (after .play resident)).isPlaybackOn = true ∧ (tapeOf (after .play resident)).isRecordOn = false
    ∧ (tapeOf (after .play resident)).isMotorOn = true
    ∧ (tapeOf (after .play resident)).tapePosition < (tapeOf (after .play resident)).tapeLength
    ∧ (tapeOf (after .record resident)).isRecordOn = true ∧ (tapeOf (after .record resident)).tapePosition < 0xFFFFFFFE
    ∧ some 0 = some ((tapeOf resident).tapePosition / 4096) := by
  decide +kernel

/-- A tick into block 1, block 0 dirty: playing and recording; and one with no block resident. -/
theorem witness_TickBlockCrossing :
    let s := after .play (nativeDeck 4 8192 4096 [] (some 0) [] true)
    let t := tapeOf s
    s.tape = some t ∧ t.medium = .native { blockBuf := [], blockIndex := some 0, blockDirty := true } ∧ t.isMotorOn = true
    ∧ (t.isRecordOn = false ∧ t.isPlaybackOn = true ∧ t.tapePosition < t.tapeLength)
    ∧ validBits t.fileBitsPerSample = true ∧ some 0 ≠ some (t.tapePosition / 4096)
    ∧ (true = true ∧ (some 0).isSome = true ∧ 0 < min 4096 (t.tapeLength - 4096 * (some 0).getD 0))
    ∧ (tapeOf (after .record (nativeDeck 4 8192 4096 [] (some 0) [] true))).isRecordOn = true ∧ 4096 < 0xFFFFFFFE
    ∧ (tapeOf (after .play (nativeDeck 4 8192 4096 [] none [] false))).medium
        = .native { blockBuf := [], blockIndex := none, blockDirty := false } := by
  decide +kernel

/-- The four pairs of draws of a write-back and a load; and a load that fails with nothing to write back, on a block whose
first sample the store holds. -/
theorem witness_TickBlockCrossing_draws :
    let s := after .play (nativeDeck 4 8192 4096 [] (some 0) [] true)
    (∀ w l : Bool, ({ s with ioScript := [w, l] } : State).ioFails = w
      ∧ ({ s with ioScript := [w, l] } : State).ioNext.ioFails = l)
    ∧ (failing (after .play (nativeDeck 4 2 0 [] none [] false))).ioFails = true
    ∧ 4096 + 0 * 4 / 8 < (failing (after .play (nativeDeck 4 2 0 [] none [] false))).lengthOf 5
    ∧ (tapeOf (after .play (nativeDeck 4 2 0 [] none [] false))).tapePosition < 2 :=
  ⟨fun _ _ => ⟨rfl, rfl⟩, rfl, by decide +kernel, by decide +kernel⟩

/-- The deck of P6 at its first sample. -/
theorem witness_LegacySignal :
    tapDeck.tape = some (tapeOf tapDeck) ∧ (tapeOf tapDeck).isMotorOn = true ∧ (tapeOf tapDeck).isRecordOn = false
    ∧ (tapeOf tapDeck).isPlaybackOn = true ∧ (tapeOf tapDeck).tapePosition < (tapeOf tapDeck).tapeLength
    ∧ 1 ≤ (tapeOf tapDeck).requestedBitsPerSample
    ∧ (tapeOf tapDeck).medium = .legacyTap
        { version := .new, pulseData := [0x04, 0x02, 0x00, 0x30, 0x00, 0x00],
          seekIndex := seekIndexOf .new [0x04, 0x02, 0x00, 0x30, 0x00, 0x00],
          cursor := cursorAt .new [0x04, 0x02, 0x00, 0x30, 0x00, 0x00] (tapeOf tapDeck).tapePosition } := by
  decide +kernel

/-- A SoundFile tape at the last frame of its resident block, and at the first of the next; a sample at full scale. -/
theorem witness_SoundTicks :
    validBits 8 = true ∧ (0xFF : Byte).toNat < 2 ^ 8 ∧ validBits 1 = true
    ∧ (soundDeck 1024 1023).tape = some (tapeOf (soundDeck 1024 1023)) ∧ (tapeOf (soundDeck 1024 1023)).isMotorOn = true
    ∧ some 0 = some ((tapeOf (soundDeck 1024 1023)).tapePosition / 1024)
    ∧ ((tapeOf (soundDeck 1024 1023)).isRecordOn = false ∧ (tapeOf (soundDeck 1024 1023)).isPlaybackOn = true
        ∧ (tapeOf (soundDeck 1024 1023)).tapePosition < (tapeOf (soundDeck 1024 1023)).tapeLength)
    ∧ some 0 ≠ some ((tapeOf (soundDeck 1025 1024)).tapePosition / 1024)
    ∧ 0 ≠ (tapeOf (soundDeck 1025 1024)).tapePosition / 1024
    ∧ 1024 * 0 < (tapeOf (soundDeck 1025 1024)).tapeLength
    ∧ (tapeOf (onDeck (fun t => { t with isRecordOn := true }) (soundDeck 1024 1024))).isRecordOn = true
    ∧ (tapeOf (soundDeck 1024 1024)).tapePosition < 0xFFFFFFFE
    ∧ (soundDeck 1025 1024).noFailure 1 ∧ (failing (soundDeck 1025 1024)).nextFails :=
  ⟨rfl, by decide, rfl, rfl, rfl, by decide, by decide, by decide, by decide, by decide, rfl, by decide, ⟨rfl, trivial⟩, rfl⟩

/-- A SoundFile tape just opened: no block resident and nothing dirty. -/
theorem witness_SoundTicks_clean :
    let s := afterAll [.openTape ⟨.soundFile, 7, .readOnly, 1, 0, 0, 0, false, false⟩, .play, .setIsMotorOn true] soundHost
    (tapeOf s).medium = .soundFile
      { channel := 0, invert := false, filterOn := false, nChannels := 1, frameBuf := [], frameBlockIndex := none,
        frameBlockDirty := false }
    ∧ (tapeOf s).tapePosition < (tapeOf s).tapeLength ∧ (tapeOf s).isPlaybackOn = true := by
  decide +kernel

/-- The clean block is brought in from the container: half scale down at eight bits (44_tape.md R451), recorded at full
scale (R452). -/
theorem test_sound_samples :
    (tapeOf (after .runOneSample (soundDeck 1024 1023))).inputState = 0xC0
    ∧ fromReal 8 (toReal 8 0xFF) = 0xFF := by
  decide +kernel

theorem witness_CuePoints :
    resident.tape = some (tapeOf resident) ∧ (tapeOf resident).cuePoints.Pairwise (fun a b => a < b)
    ∧ (tapeOf resident).tapePosition ∈ (tapeOf resident).cuePoints
    ∧ (tapeOf (nativeDeck 8 9 2 [1, 3] none [] false)).tapePosition ∉ [1, 3]
    ∧ (tapeOf (nativeDeck 8 9 2 [1, 3] none [] false)).tapePosition ≠ 0xFFFFFFFF
    ∧ (tapeOf (nativeDeck 8 0xFFFFFFFF 0xFFFFFFFF [1] none [] false)).tapePosition = 0xFFFFFFFF
    ∧ (tapeOf (nativeDeck 8 9 2 [] none [] false)).cuePoints = []
    ∧ ∀ d ∈ [1, 3], ((1 : Int) - 2).natAbs < ((d : Int) - 2).natAbs
        ∨ ((1 : Int) - 2).natAbs = ((d : Int) - 2).natAbs ∧ 1 ≤ d := by
  decide

/-- A full table: 1019 cue points, and the position past them. -/
theorem witness_CuePoints_full :
    (List.range 1019).Pairwise (fun a b => a < b) ∧ 1019 ∉ List.range 1019 ∧ (List.range 1019).length = 1019 :=
  ⟨List.pairwise_lt_range, by simp, by simp⟩

/-- A store of one header, eight bits, one sample a second, and one data byte. -/
def nativeHost : State :=
  quiet { State.reset with
    stores := [(5, .bytes 4097 (Memory.ofBytes (tapeMagic ++ [0, 0, 0, 8, 0, 0, 0, 1, 0xFF, 0xFF, 0xFF, 0xFF])))] }

theorem witness_OpenNative :
    let a : OpenArgs := ⟨.native, 5, .create, 8, 1, 8, 0, false, false⟩
    (quiet State.reset).tape = none ∧ a.fmt = .native ∧ a.mode = .create ∧ validBits a.requestedBits = true
    ∧ validBits a.fileBits = true ∧ 0 < a.sampleRate ∧ TapeMode.readWrite ≠ .create ∧ 4096 ≤ nativeHost.lengthOf 5
    ∧ (∀ k, k < 8 → nativeHost.byteAt 5 k = [0x72, 0xCD, 0x75, 0x02, 0x26, 0x51, 0x44, 0x1C].getD k 0)
    ∧ validBits ((((nativeHost.byteAt 5 8).toNat * 256 + (nativeHost.byteAt 5 9).toNat) * 256
        + (nativeHost.byteAt 5 10).toNat) * 256 + (nativeHost.byteAt 5 11).toNat) = true
    ∧ (((nativeHost.byteAt 5 12).toNat * 256 + (nativeHost.byteAt 5 13).toNat) * 256
        + (nativeHost.byteAt 5 14).toNat) * 256 + (nativeHost.byteAt 5 15).toNat ≠ 0 := by
  decide

theorem witness_OpenNative_draws : (quiet State.reset).noFailure 1 ∧ nativeHost.noFailure 1 :=
  ⟨(quiet_noFailure _).1, (quiet_noFailure _).1⟩

/-- The wrapped length of a file of 2^32 + 1 one-byte samples (00_scope.md R10, 30_encoding.md R162). -/
theorem test_length_wraps : nativeLength (4096 + 4294967297) 8 = 1 := by decide

theorem witness_NativeHeaderRoundTrip :
    validBits 8 = true ∧ 0 < 4294967295 ∧ 4294967295 < 2 ^ 32 ∧ [0, 0xFFFFFFFE].Pairwise (fun a b => a < b)
    ∧ [0, 0xFFFFFFFE].length ≤ 1019 ∧ ∀ c ∈ [0, 0xFFFFFFFE], c < 0xFFFFFFFF := by
  decide

theorem witness_PackUnpack :
    validBits 2 = true ∧ ∀ v ∈ ([3, 0, 1] : List Byte), v.toNat < 2 ^ 2 := by
  decide

/-- Each refusal at its boundary: stores one byte short of a header, a wrong last byte of either magic, resolution 0, rate 0,
version 3, a channel past the container's, draws that fail. -/
theorem witness_OpenTapeRefuses :
    State.reset.tape = none ∧ validBits 3 = false ∧ validBits 8 = true ∧ TapeMode.create ≠ .readOnly
    ∧ TapeMode.readWrite ≠ .create ∧ validBits 0 = false
    ∧ ({ State.reset with stores := [(5, .bytes 4095 [])] } : State).lengthOf 5 < 4096
    ∧ 4096 ≤ ({ State.reset with stores := [(5, .bytes 4096 (Memory.ofBytes (tapeMagic.set 7 0x1D)))] } : State).lengthOf 5
    ∧ ({ State.reset with stores := [(5, .bytes 4096 (Memory.ofBytes (tapeMagic.set 7 0x1D)))] } : State).byteAt 5 7
        ≠ tapeMagic.getD 7 0
    ∧ ({ State.reset with stores := [(6, .bytes 19 [])] } : State).lengthOf 6 < 20
    ∧ ({ tapHost with stores := [(6, .bytes 20 (Memory.ofBytes (c16Magic ++ [0x03])))] } : State).byteAt 6 12 = 0x03
    ∧ 20 < tapHost.lengthOf 6
    ∧ soundOf (soundHost.store 7) = some { nChannels := 1, sampleRate := 8, frames := [[0], [-1 / 2]] }
    ∧ (quiet State.reset).noFailure 1 ∧ (failing State.reset).nextFails
    ∧ ({ tapHost with ioScript := [false, true] } : State).noFailure 1
    ∧ ({ tapHost with ioScript := [false, true] } : State).ioNext.nextFails :=
  ⟨rfl, rfl, rfl, by decide, by decide, rfl, by decide, by decide, by decide, by decide, by decide, by decide,
    by decide +kernel, (quiet_noFailure _).1, failing_nextFails _, ⟨rfl, trivial⟩, rfl⟩

theorem test_openTape_refuses :
    (after (.openTape ⟨.legacyTap, 6, .readOnly, 8, 0, 0, 0, false, false⟩)
        { tapHost with ioScript := [false, true] }).result = .hostIoError .read
    ∧ (after (.openTape ⟨.soundFile, 7, .readOnly, 8, 0, 0, 1, false, false⟩) soundHost).result = .hostIoError .badFormat
    ∧ (after (.openTape ⟨.soundFile, 7, .create, 8, 8, 0, 0, false, false⟩) (failing State.reset)).result
        = .hostIoError .write := by
  decide +kernel

/-- A LegacyTap file of the header alone, either version; a mono container and an empty one. -/
theorem witness_OpenLegacyTapAndSoundFile :
    tapHost.tape = none ∧ validBits 1 = true ∧ 20 ≤ tapHost.lengthOf 6 ∧ tapHost.noFailure 2
    ∧ (∀ k, k < 12 → tapHost.byteAt 6 k = c16Magic.getD k 0) ∧ tapHost.byteAt 6 12 = 0x02
    ∧ ({ tapHost with stores := [(6, .bytes 20 (Memory.ofBytes (c16Magic ++ [0x01])))] } : State).byteAt 6 12 = 0x01
    ∧ 20 ≤ ({ tapHost with stores := [(6, .bytes 20 (Memory.ofBytes (c16Magic ++ [0x01])))] } : State).lengthOf 6
    ∧ soundHost.tape = none ∧ soundHost.noFailure 1 ∧ 0 < (1 : Nat) ∧ (8 : Nat) ≠ 0 :=
  ⟨rfl, rfl, by decide, (quiet_noFailure _).2, by decide, by decide, by decide, by decide, rfl, (quiet_noFailure _).1,
    by decide, by decide⟩

theorem witness_MemoryInvariant :
    TrackTablesOk (writing 511 0xA0).params ∧ MemoryOk (calling ⟨.fdcPort, [0b111, 0x99]⟩ (writing 511 0xA0))
    ∧ ∃ t, step (calling ⟨.fdcPort, [0b111, 0x99]⟩ (writing 511 0xA0)) = .next t := by
  refine ⟨default_ParamsOk.2, ⟨⟨by decide, fun c hc => ?_⟩, ?_, ?_, ?_, ?_, ?_⟩, _,
    by rw [step_calling (i := .wdr 0x99) (by decide), exec, execWdr]⟩
  · obtain rfl := List.mem_singleton.1 hc
    exact ⟨by decide, by decide, by decide⟩
  · exact ⟨by decide, by decide⟩
  · exact ⟨by decide, by decide⟩
  · exact ⟨by decide, by decide⟩
  · exact ⟨by decide, by decide⟩
  · intro t h
    cases h

theorem witness_TapeInvariant :
    DeckOk (calling ⟨.hostOp, [0x35]⟩ resident)
    ∧ ∃ t, step (calling ⟨.hostOp, [0x35]⟩ resident) = .next t := by
  refine ⟨fun t h => ?_, _, by rw [step_calling (i := .runOneSample) (by decide), exec, execRunOneSample, onTape]; rfl⟩
  obtain rfl : t = tapeOf resident := Option.some.inj h.symm
  refine ⟨by decide, by decide, by decide, by decide, by decide, by decide, by decide, by decide, by decide, by decide,
    by decide, fun i => ?_, by decide⟩
  by_cases h : 4095 = i
  · subst h; decide
  · simp [tapeOf, resident, nativeDeck, quiet, Memory.read, h]

end Sys2Proof.Tests
end

/-! ### What one step does

One equation for each branch of `step` (00_scope.md R6): the call decodes, the call does not decode, there is no call. -/

namespace Sys2Proof.Machine

theorem step_of_decode_ok {s : State} {c : HostCall} {rest : List HostCall} {i : Instr}
    (hcalls : s.calls = c :: rest) (hdec : decode c = .ok i) : step s = exec i { s with calls := rest } := by
  simp only [step, hcalls, hdec]

theorem step_of_decode_error {s : State} {c : HostCall} {rest : List HostCall} {e : DecodeError}
    (hcalls : s.calls = c :: rest) (hdec : decode c = .error e) : step s = .refused (.notAnOperation e) := by
  simp only [step, hcalls, hdec]

theorem step_of_calls_nil {s : State} (hcalls : s.calls = []) : step s = .fault .noCallPending := by
  simp only [step, hcalls]

/-- Settles O4: the clauses are the three equations of `step`. -/
theorem stepRunsDecoded : Obligations.StepRunsDecoded := by
  intro s
  exact ⟨fun _ _ _ => step_of_decode_ok, fun _ _ _ => step_of_decode_error, step_of_calls_nil⟩

end Sys2Proof.Machine

/-! ### The frame of a sub-block

An operation of one sub-block leaves the parameters, the pending calls and the other two sub-blocks as they were
(60_exceptions.md R538). A store access leaves all three as they were. -/

namespace Sys2Proof.Machine

/-- From `s` to `t` the parameters, the pending calls and every sub-block but `b` are kept. -/
def KeepsOthers (b : SubBlock) (s t : State) : Prop :=
  t.params = s.params ∧ t.calls = s.calls
    ∧ (b ≠ .tbm → t.tbm = s.tbm) ∧ (b ≠ .fdc → t.fdc = s.fdc) ∧ (b ≠ .tape → t.tape = s.tape)

/-- From `s` to `t` only the host's files, the draws and the result may change. -/
def KeepsBlocks (s t : State) : Prop :=
  t.params = s.params ∧ t.calls = s.calls ∧ t.tbm = s.tbm ∧ t.fdc = s.fdc ∧ t.tape = s.tape

variable {b : SubBlock} {s t u : State}

theorem KeepsOthers.refl (b : SubBlock) (s : State) : KeepsOthers b s s :=
  ⟨rfl, rfl, fun _ => rfl, fun _ => rfl, fun _ => rfl⟩

theorem KeepsOthers.trans (h₁ : KeepsOthers b s t) (h₂ : KeepsOthers b t u) : KeepsOthers b s u := by
  obtain ⟨hp₁, hc₁, ht₁, hf₁, hd₁⟩ := h₁
  obtain ⟨hp₂, hc₂, ht₂, hf₂, hd₂⟩ := h₂
  exact ⟨hp₂.trans hp₁, hc₂.trans hc₁, fun hb => (ht₂ hb).trans (ht₁ hb), fun hb => (hf₂ hb).trans (hf₁ hb),
    fun hb => (hd₂ hb).trans (hd₁ hb)⟩

theorem KeepsBlocks.refl (s : State) : KeepsBlocks s s := ⟨rfl, rfl, rfl, rfl, rfl⟩

theorem KeepsBlocks.trans (h₁ : KeepsBlocks s t) (h₂ : KeepsBlocks t u) : KeepsBlocks s u := by
  obtain ⟨hp₁, hc₁, ht₁, hf₁, hd₁⟩ := h₁
  obtain ⟨hp₂, hc₂, ht₂, hf₂, hd₂⟩ := h₂
  exact ⟨hp₂.trans hp₁, hc₂.trans hc₁, ht₂.trans ht₁, hf₂.trans hf₁, hd₂.trans hd₁⟩

theorem KeepsBlocks.keepsOthers (h : KeepsBlocks s t) (b : SubBlock) : KeepsOthers b s t := by
  obtain ⟨hp, hc, ht, hf, hd⟩ := h
  exact ⟨hp, hc, fun _ => ht, fun _ => hf, fun _ => hd⟩

theorem KeepsOthers.params (h : KeepsOthers b s t) : t.params = s.params := by
  obtain ⟨hp, -⟩ := h
  exact hp

theorem KeepsOthers.fdc (h : KeepsOthers b s t) (hb : b ≠ .fdc) : t.fdc = s.fdc := by
  obtain ⟨-, -, -, hf, -⟩ := h
  exact hf hb

theorem KeepsOthers.tape (h : KeepsOthers b s t) (hb : b ≠ .tape) : t.tape = s.tape := by
  obtain ⟨-, -, -, -, hd⟩ := h
  exact hd hb

theorem KeepsBlocks.params (h : KeepsBlocks s t) : t.params = s.params := by
  obtain ⟨hp, -⟩ := h
  exact hp

theorem KeepsBlocks.fdc (h : KeepsBlocks s t) : t.fdc = s.fdc := by
  obtain ⟨-, -, -, hf, -⟩ := h
  exact hf

theorem KeepsBlocks.tape (h : KeepsBlocks s t) : t.tape = s.tape := by
  obtain ⟨-, -, -, -, hd⟩ := h
  exact hd

/-! #### Updates of the state -/

theorem keepsOthers_setTbm (s : State) (x : Tbm) : KeepsOthers .tbm s (s.setTbm x) :=
  ⟨rfl, rfl, fun h => absurd rfl h, fun _ => rfl, fun _ => rfl⟩

theorem keepsOthers_setFdc (s : State) (x : Fdc) : KeepsOthers .fdc s (s.setFdc x) :=
  ⟨rfl, rfl, fun _ => rfl, fun h => absurd rfl h, fun _ => rfl⟩

theorem keepsOthers_setTape (s : State) (x : Option Tape) : KeepsOthers .tape s (s.setTape x) :=
  ⟨rfl, rfl, fun _ => rfl, fun _ => rfl, fun h => absurd rfl h⟩

theorem keepsBlocks_returns (s : State) (r : Result) : KeepsBlocks s (s.returns r) := ⟨rfl, rfl, rfl, rfl, rfl⟩

theorem keepsBlocks_raise (s : State) (k : IoError) : KeepsBlocks s (s.raise k) := ⟨rfl, rfl, rfl, rfl, rfl⟩

theorem keepsBlocks_ioNext (s : State) : KeepsBlocks s s.ioNext := by simp [KeepsBlocks]

theorem keepsBlocks_indexNext (s : State) : KeepsBlocks s s.indexNext := by simp [KeepsBlocks]

theorem keepsBlocks_ioNext_putStore (s : State) (id : Nat) (st : Store) : KeepsBlocks s (s.ioNext.putStore id st) := by
  simp [KeepsBlocks]

theorem KeepsOthers.setTbm (h : KeepsOthers .tbm s t) (x : Tbm) : KeepsOthers .tbm s (t.setTbm x) :=
  h.trans (keepsOthers_setTbm t x)

theorem KeepsOthers.returns (h : KeepsOthers b s t) (r : Result) : KeepsOthers b s (t.returns r) :=
  h.trans ((keepsBlocks_returns t r).keepsOthers b)

theorem KeepsOthers.raise (h : KeepsOthers b s t) (k : IoError) : KeepsOthers b s (t.raise k) :=
  h.trans ((keepsBlocks_raise t k).keepsOthers b)

theorem keepsBlocks_finish {α : Type} (f : α → Result) (out : Except IoError α × State) :
    KeepsBlocks out.2 (finish f out) := by
  unfold finish
  split
  · exact keepsBlocks_returns _ _
  · exact keepsBlocks_raise _ _

/-! #### Store accesses -/

theorem memRead_keepsBlocks (id off n : Nat) (s : State) : KeepsBlocks s (memRead id off n s).2 := by
  obtain ⟨h, -⟩ | ⟨-, -, h⟩ | ⟨-, -, h⟩ := memRead_cases id off n s <;> rw [h]
  · exact .refl s
  · exact keepsBlocks_ioNext s
  · exact keepsBlocks_ioNext s

theorem keepsBlocks_of_memRead_eq {id off n : Nat} {r : ReadOutcome} (h : memRead id off n s = (r, t)) :
    KeepsBlocks s t := by
  have hk := memRead_keepsBlocks id off n s
  rwa [h] at hk

theorem memWrite_keepsBlocks (id off : Nat) (bs : List Byte) (s : State) : KeepsBlocks s (memWrite id off bs s).2 := by
  obtain ⟨-, h⟩ | ⟨-, h⟩ := memWrite_cases id off bs s <;> rw [h]
  · exact keepsBlocks_ioNext s
  · exact keepsBlocks_ioNext_putStore s _ _

theorem putSound_keepsBlocks (id : Nat) (c : Sound) (s : State) : KeepsBlocks s (putSound id c s).2 := by
  obtain ⟨-, h⟩ | ⟨-, h⟩ := putSound_cases id c s <;> rw [h]
  · exact keepsBlocks_ioNext s
  · exact keepsBlocks_ioNext_putStore s _ _

theorem imageWrite_keepsBlocks (f : Fdc) (s : State) : KeepsBlocks s (imageWrite f s).2 := by
  obtain ⟨-, h⟩ | ⟨id, -, h⟩ := imageWrite_cases f s <;> rw [h]
  · exact .refl s
  · exact memWrite_keepsBlocks _ _ _ s

/-! #### The track buffer manager -/

theorem loadTrack_keepsOthers (id track : Nat) (s : State) : KeepsOthers .tbm s (loadTrack id track s).2 := by
  unfold loadTrack
  split
  · next data s1 hdata =>
    have h1 := (keepsBlocks_of_memRead_eq hdata).keepsOthers .tbm
    split
    · split
      · next codes s2 hcodes => exact (h1.trans ((keepsBlocks_of_memRead_eq hcodes).keepsOthers _)).setTbm _
      · next s2 _ hcodes => exact h1.trans ((keepsBlocks_of_memRead_eq hcodes).keepsOthers _)
    · exact h1.setTbm _
  · next s1 _ hdata => exact (keepsBlocks_of_memRead_eq hdata).keepsOthers _

theorem readTrack_keepsOthers (trackNum : Int) (s : State) : KeepsOthers .tbm s (readTrack trackNum s).2 := by
  unfold readTrack
  dsimp only
  split
  · exact keepsOthers_setTbm s _
  · split
    · exact (keepsOthers_setTbm s _).trans (loadTrack_keepsOthers _ _ _)
    · exact keepsOthers_setTbm s _

theorem writeTrack_keepsOthers (id track : Nat) (s : State) : KeepsOthers .tbm s (writeTrack id track s).2 := by
  have hdata := fun off bs => (memWrite_keepsBlocks id off bs s).keepsOthers .tbm
  unfold writeTrack
  dsimp only
  split
  · exact hdata _ _
  · split
    · split <;> exact (hdata _ _).trans ((memWrite_keepsBlocks _ _ _ _).keepsOthers _)
    · exact hdata _ _

theorem flushTrack_keepsOthers (trackNum : Int) (s : State) : KeepsOthers .tbm s (flushTrack trackNum s).2 := by
  unfold flushTrack
  dsimp only
  split
  · exact .refl _ s
  split
  · exact .refl _ s
  split
  · exact keepsOthers_setTbm s _
  split
  · exact keepsOthers_setTbm s _
  split
  · exact keepsOthers_setTbm s _
  · exact (keepsOthers_setTbm s _).trans (writeTrack_keepsOthers _ _ _)

theorem setCurrentTrack_keepsOthers (trackNum : Int) (s : State) :
    KeepsOthers .tbm s (setCurrentTrack trackNum s).2 := by
  unfold setCurrentTrack
  dsimp only
  split
  · exact .refl _ s
  · exact ((flushTrack_keepsOthers (-1) s).setTbm _).trans (readTrack_keepsOthers _ _)

theorem attachImage_keepsOthers (id : Nat) (readOnly : Bool) (s : State) :
    KeepsOthers .tbm s (attachImage id readOnly s).2 := by
  unfold attachImage
  split
  · exact .refl _ s
  · dsimp only
    split <;> exact (keepsOthers_setTbm s _).trans (setCurrentTrack_keepsOthers _ _)

theorem setImageFile_keepsOthers (file : Option Nat) (readOnly : Bool) (s : State) :
    KeepsOthers .tbm s (setImageFile file readOnly s).2 := by
  have hflush : KeepsOthers .tbm s
      (match s.tbm.imageFile with
        | none => (Except.ok true, s)
        | some _ => flushTrack (-1) s).2 := by
    split
    · exact .refl _ s
    · exact flushTrack_keepsOthers _ s
  unfold setImageFile
  dsimp only
  split
  · exact hflush.setTbm _
  · exact hflush.setTbm _
  · exact (hflush.setTbm _).trans (attachImage_keepsOthers _ _ _)

end Sys2Proof.Machine

/-! ### What a step can do to the floppy controller

Every operation of the FDC is a run of six kinds of change: a register aside, the end of a transfer, work with no transfer
running, the start of a transfer, one byte moved, an attach. The invariants of 10_state.md R30 and R33 follow from the
kinds, one case each. -/

namespace Sys2Proof.Machine

/-! #### The kinds of change -/

/-- The same image, in the same geometry, with the same protection. -/
def Fdc.SameImage (f g : Fdc) : Prop :=
  g.imageFile = f.imageFile ∧ g.readOnly = f.readOnly ∧ g.nTracks = f.nTracks ∧ g.nSides = f.nSides
    ∧ g.nSectorsPerTrack = f.nSectorsPerTrack

/-- The flags of a transfer are the same: DRQ, BUSY, status bit 1. -/
def Fdc.SameFlags (f g : Fdc) : Prop :=
  g.dataRequestFlag = f.dataRequestFlag ∧ g.statusRegister.getLsbD 0 = f.statusRegister.getLsbD 0
    ∧ g.statusRegister.getLsbD 1 = f.statusRegister.getLsbD 1

/-- The head is where it was, or within 0..`HEAD_MAX`. -/
def HeadKept (p : Params) (f g : Fdc) : Prop := g.currentTrack = f.currentTrack ∨ g.currentTrack ≤ p.headMax

/-- No transfer is running: the cursor at 512, DRQ and BUSY clear. -/
def Fdc.Resting (f : Fdc) : Prop :=
  f.bufPos = fdcSector ∧ f.dataRequestFlag = false ∧ f.statusRegister.getLsbD 0 = false

/-- An image is attached that may be written. -/
def Fdc.Writable (f : Fdc) : Prop := f.imageFile.isSome = true ∧ f.readOnly = false

/-- A transfer of the kind the command register names is running, a write only on a writable image. -/
def Fdc.Running (f : Fdc) : Prop :=
  f.bufPos < fdcSector ∧ f.dataRequestFlag = true ∧ f.statusRegister.getLsbD 0 = true
    ∧ f.statusRegister.getLsbD 1 = true ∧ (transferKind f.commandRegister).isSome = true
    ∧ (transferKind f.commandRegister = some .sectorWrite → f.Writable)

/-- One change an operation makes to the FDC. -/
inductive FdcChange (p : Params) (f g : Fdc) : Prop where
  /-- nothing of the transfer, of the image or of the head -/
  | aside (image : f.SameImage g) (head : g.currentTrack = f.currentTrack) (flags : f.SameFlags g)
      (pos : g.bufPos = f.bufPos) (command : g.commandRegister = f.commandRegister)
  /-- the end of whatever transfer there was -/
  | rest (image : f.SameImage g) (head : HeadKept p f g) (resting : g.Resting)
  /-- with no transfer running, anything but DRQ, the cursor, the image, and BUSY set -/
  | idle (notBusy : f.busy = false) (image : f.SameImage g) (head : HeadKept p f g) (pos : g.bufPos = f.bufPos)
      (drq : g.dataRequestFlag = f.dataRequestFlag)
      (busy : g.statusRegister.getLsbD 0 = true → f.statusRegister.getLsbD 0 = true)
  /-- a transfer begun -/
  | start (image : f.SameImage g) (head : g.currentTrack = f.currentTrack) (running : g.Running)
  /-- one byte moved, not the last -/
  | move (image : f.SameImage g) (head : g.currentTrack = f.currentTrack) (flags : f.SameFlags g)
      (pos : g.bufPos = f.bufPos + 1) (more : g.bufPos < fdcSector) (command : g.commandRegister = f.commandRegister)
  /-- with no transfer running, another image or none -/
  | attach (notBusy : f.busy = false) (head : g.currentTrack = f.currentTrack) (flags : f.SameFlags g)
      (pos : g.bufPos = f.bufPos) (geometry : GeometryRowsOk p → FdcGeometryOk g)

theorem Fdc.busy_iff {f : Fdc} : f.busy = true ↔ f.bufPos < fdcSector := by simp [Fdc.busy]

theorem Fdc.busy_false_iff {f : Fdc} : f.busy = false ↔ fdcSector ≤ f.bufPos := by simp [Fdc.busy]

theorem Fdc.Resting.busy {f : Fdc} (h : f.Resting) : f.busy = false := Fdc.busy_false_iff.2 (Nat.le_of_eq h.1.symm)

theorem Fdc.SameImage.refl (f : Fdc) : f.SameImage f := ⟨rfl, rfl, rfl, rfl, rfl⟩

theorem Fdc.SameFlags.refl (f : Fdc) : f.SameFlags f := ⟨rfl, rfl, rfl⟩

/-! #### The transfer invariant (10_state.md R33) -/

theorem fdcTransferOk_of_resting {f : Fdc} (h : f.Resting) : FdcTransferOk f := by
  obtain ⟨hpos, hdrq, hbusy⟩ := h
  have hb : f.busy = false := Fdc.busy_false_iff.2 (Nat.le_of_eq hpos.symm)
  exact ⟨Nat.le_of_eq hpos, by rw [hdrq, hb], by rw [hbusy, hb], by simp [hb]⟩

theorem fdcTransferOk_of_running {f : Fdc} (h : f.Running) : FdcTransferOk f := by
  obtain ⟨hpos, hdrq, hbit0, hbit1, hkind, -⟩ := h
  have hb : f.busy = true := Fdc.busy_iff.2 hpos
  exact ⟨Nat.le_of_lt hpos, by rw [hdrq, hb], by rw [hbit0, hb], fun _ => ⟨hbit1, hkind⟩⟩

theorem FdcTransferOk.resting {f : Fdc} (h : FdcTransferOk f) (hb : f.busy = false) : f.Resting := by
  obtain ⟨hpos, hdrq, hbit0, -⟩ := h
  exact ⟨Nat.le_antisymm hpos (Fdc.busy_false_iff.1 hb), hdrq.trans hb, hbit0.trans hb⟩

theorem FdcChange.keeps_transferOk {p : Params} {f g : Fdc} (h : FdcChange p f g) (hf : FdcTransferOk f) :
    FdcTransferOk g := by
  cases h with
  | aside _ _ flags pos command =>
    obtain ⟨hdrq, hbit0, hbit1⟩ := flags
    unfold FdcTransferOk Fdc.busy
    rw [hdrq, hbit0, hbit1, pos, command]
    exact hf
  | rest _ _ resting => exact fdcTransferOk_of_resting resting
  | idle notBusy _ _ pos drq busy =>
    obtain ⟨hpos, hdrq, hbit0⟩ := hf.resting notBusy
    refine fdcTransferOk_of_resting ⟨pos.trans hpos, drq.trans hdrq, ?_⟩
    rw [Bool.eq_false_iff]
    exact fun hg => Bool.false_ne_true (hbit0.symm.trans (busy hg))
  | start _ _ running => exact fdcTransferOk_of_running running
  | move _ _ flags pos more command =>
    obtain ⟨hdrq, hbit0, hbit1⟩ := flags
    have hbf : f.busy = true := Fdc.busy_iff.2 (by omega)
    have hbg : g.busy = true := Fdc.busy_iff.2 more
    obtain ⟨-, hdrqf, hbit0f, hrun⟩ := hf
    refine ⟨Nat.le_of_lt more, by rw [hdrq, hdrqf, hbf, hbg], by rw [hbit0, hbit0f, hbf, hbg], fun _ => ?_⟩
    rw [hbit1, command]
    exact hrun hbf
  | attach notBusy _ flags pos _ =>
    obtain ⟨hdrq, hbit0, -⟩ := flags
    obtain ⟨hposf, hdrqf, hbit0f⟩ := hf.resting notBusy
    exact fdcTransferOk_of_resting ⟨pos.trans hposf, hdrq.trans hdrqf, hbit0.trans hbit0f⟩

/-! #### Geometry, head and write transfers (10_state.md R30, 43_fdc_commands.md R357) -/

theorem Fdc.SameImage.geometryOk {f g : Fdc} (h : f.SameImage g) (hf : FdcGeometryOk f) : FdcGeometryOk g := by
  obtain ⟨hi, hr, ht, hs, hn⟩ := h
  unfold FdcGeometryOk
  rw [hi, hr, ht, hs, hn]
  exact hf

theorem Fdc.SameImage.writable {f g : Fdc} (h : f.SameImage g) (hf : f.Writable) : g.Writable := by
  obtain ⟨hi, hr, -⟩ := h
  unfold Fdc.Writable
  rw [hi, hr]
  exact hf

theorem fdcWriteOk_of_not_busy {f : Fdc} (h : f.busy = false) : FdcWriteOk f := by
  intro hb
  rw [h] at hb
  cases hb

theorem HeadKept.headOk {p : Params} {f g : Fdc} (h : HeadKept p f g) (hf : FdcHeadOk p f) : FdcHeadOk p g := by
  obtain heq | hle := h
  · rw [FdcHeadOk, heq]
    exact hf
  · exact hle

theorem FdcChange.headKept {p : Params} {f g : Fdc} (h : FdcChange p f g) : HeadKept p f g := by
  cases h with
  | aside _ head => exact .inl head
  | rest _ head => exact head
  | idle _ _ head => exact head
  | start _ head => exact .inl head
  | move _ head => exact .inl head
  | attach _ head => exact .inl head

theorem FdcChange.keeps_geometryOk {p : Params} {f g : Fdc} (h : FdcChange p f g) (hp : GeometryRowsOk p)
    (hf : FdcGeometryOk f) : FdcGeometryOk g := by
  cases h with
  | aside image => exact image.geometryOk hf
  | rest image => exact image.geometryOk hf
  | idle _ image => exact image.geometryOk hf
  | start image => exact image.geometryOk hf
  | move image => exact image.geometryOk hf
  | attach _ _ _ _ geometry => exact geometry hp

theorem FdcChange.keeps_writeOk {p : Params} {f g : Fdc} (h : FdcChange p f g) (hf : FdcWriteOk f) : FdcWriteOk g := by
  cases h with
  | aside image _ _ pos command =>
    intro hb hk
    rw [Fdc.busy, pos] at hb
    rw [command] at hk
    exact image.writable (hf hb hk)
  | rest _ _ resting => exact fdcWriteOk_of_not_busy resting.busy
  | idle notBusy _ _ pos =>
    rw [Fdc.busy, ← pos] at notBusy
    exact fdcWriteOk_of_not_busy notBusy
  | start _ _ running =>
    obtain ⟨-, -, -, -, -, hwrite⟩ := running
    exact fun _ => hwrite
  | move image _ _ pos more command =>
    intro _ hk
    rw [command] at hk
    exact image.writable (hf (Fdc.busy_iff.2 (by omega)) hk)
  | attach notBusy _ _ pos =>
    rw [Fdc.busy, ← pos] at notBusy
    exact fdcWriteOk_of_not_busy notBusy

/-! #### Runs of changes -/

/-- From `s` to `t` the FDC changes by a run of the changes above, and nothing outside it but stores and draws does. -/
def FdcChanges (s t : State) : Prop :=
  KeepsOthers .fdc s t ∧ Relation.ReflTransGen (FdcChange s.params) s.fdc t.fdc

theorem FdcChanges.trans {s t u : State} (h₁ : FdcChanges s t) (h₂ : FdcChanges t u) : FdcChanges s u := by
  obtain ⟨hk₁, hr₁⟩ := h₁
  obtain ⟨hk₂, hr₂⟩ := h₂
  rw [hk₁.params] at hr₂
  exact ⟨hk₁.trans hk₂, hr₁.trans hr₂⟩

theorem KeepsBlocks.fdcChanges {s t : State} (h : KeepsBlocks s t) : FdcChanges s t := by
  refine ⟨h.keepsOthers .fdc, ?_⟩
  rw [h.fdc]

theorem FdcChanges.refl (s : State) : FdcChanges s s := (KeepsBlocks.refl s).fdcChanges

theorem FdcChange.setFdc {s : State} {f : Fdc} (h : FdcChange s.params s.fdc f) : FdcChanges s (s.setFdc f) :=
  ⟨keepsOthers_setFdc s f, .single h⟩

theorem FdcChanges.returns {s t : State} (h : FdcChanges s t) (r : Result) : FdcChanges s (t.returns r) :=
  h.trans (keepsBlocks_returns t r).fdcChanges

theorem fdcRun_keeps_transferOk {p : Params} {f g : Fdc} (h : Relation.ReflTransGen (FdcChange p) f g)
    (hf : FdcTransferOk f) : FdcTransferOk g := by
  induction h with
  | refl => exact hf
  | tail _ hc ih => exact hc.keeps_transferOk ih

theorem fdcRun_keeps_geometry {p : Params} {f g : Fdc} (h : Relation.ReflTransGen (FdcChange p) f g)
    (hp : GeometryRowsOk p) (hf : FdcGeometryOk f ∧ FdcWriteOk f ∧ FdcHeadOk p f) :
    FdcGeometryOk g ∧ FdcWriteOk g ∧ FdcHeadOk p g := by
  induction h with
  | refl => exact hf
  | tail _ hc ih =>
    obtain ⟨hg, hw, hh⟩ := ih
    exact ⟨hc.keeps_geometryOk hp hg, hc.keeps_writeOk hw, hc.headKept.headOk hh⟩

end Sys2Proof.Machine

/-! ### The operations of the floppy controller as runs of changes -/

namespace Sys2Proof.Machine

/-! #### Bits of the status compositions (43_fdc_commands.md) -/

theorem bit7Idle_getLsbD_zero (p : Params) : (bit7Idle p).getLsbD 0 = false := by
  unfold bit7Idle
  split <;> rfl

theorem flagIf_getLsbD_zero {bit : Byte} (h : bit.getLsbD 0 = false) (b : Bool) : (flagIf b bit).getLsbD 0 = false := by
  cases b
  · simp [flagIf]
  · exact h

theorem or_getLsbD_zero {x y : Byte} (hx : x.getLsbD 0 = false) (hy : y.getLsbD 0 = false) :
    (x ||| y).getLsbD 0 = false := by
  rw [BitVec.getLsbD_or, hx, hy, Bool.or_false]

theorem or_getLsbD_of_left {x y : Byte} {k : Nat} (hx : x.getLsbD k = true) : (x ||| y).getLsbD k = true := by
  rw [BitVec.getLsbD_or, hx, Bool.true_or]

theorem clearBusyDrq_getLsbD_zero (st : Byte) : (clearBusyDrq st).getLsbD 0 = false := by
  rw [clearBusyDrq, BitVec.getLsbD_and]
  exact Bool.and_false _

theorem typeIStatus_getLsbD_zero (p : Params) (f : Fdc) (v index : Bool) :
    (typeIStatus p f v index).getLsbD 0 = false :=
  or_getLsbD_zero
    (or_getLsbD_zero
      (or_getLsbD_zero
        (or_getLsbD_zero (or_getLsbD_zero (bit7Idle_getLsbD_zero p) (flagIf_getLsbD_zero rfl _)) rfl)
        (flagIf_getLsbD_zero rfl _))
      (flagIf_getLsbD_zero rfl _))
    (flagIf_getLsbD_zero rfl _)

theorem notFoundStatus_getLsbD_zero (p : Params) : (notFoundStatus p).getLsbD 0 = false :=
  or_getLsbD_zero rfl (bit7Idle_getLsbD_zero p)

theorem crcErrorStatus_getLsbD_zero (p : Params) : (crcErrorStatus p).getLsbD 0 = false :=
  or_getLsbD_zero rfl (bit7Idle_getLsbD_zero p)

theorem protectedStatus_getLsbD_zero (p : Params) : (protectedStatus p).getLsbD 0 = false :=
  or_getLsbD_zero rfl (bit7Idle_getLsbD_zero p)

theorem bit5Status_getLsbD_zero (p : Params) : (bit5Status p).getLsbD 0 = false :=
  or_getLsbD_zero rfl (bit7Idle_getLsbD_zero p)

theorem writeTrackStatus_getLsbD_zero (p : Params) (f : Fdc) : (writeTrackStatus p f).getLsbD 0 = false :=
  or_getLsbD_zero (or_getLsbD_zero rfl (flagIf_getLsbD_zero rfl _)) (bit7Idle_getLsbD_zero p)

theorem transferStatus_getLsbD (p : Params) :
    (transferStatus p).getLsbD 0 = true ∧ (transferStatus p).getLsbD 1 = true :=
  ⟨or_getLsbD_of_left rfl, or_getLsbD_of_left rfl⟩

theorem addressStatus_getLsbD (p : Params) :
    (addressStatus p).getLsbD 0 = true ∧ (addressStatus p).getLsbD 1 = true :=
  ⟨or_getLsbD_of_left rfl, or_getLsbD_of_left rfl⟩

/-! #### The kind a command byte names (10_state.md R34) -/

/-- The kind is named by the upper three bits: a mask that keeps them keeps it. -/
theorem transferKind_and {c mask : Byte} (h : mask.extractLsb' 5 3 = 0b111#3) :
    transferKind (c &&& mask) = transferKind c := by
  have hbits : (c &&& mask).extractLsb' 5 3 = c.extractLsb' 5 3 := by
    rw [BitVec.extractLsb'_and, h]
    exact BitVec.and_allOnes
  unfold transferKind
  rw [hbits]

theorem transferKind_of_readSector {c : Byte} (h : c &&& 0xE0#8 = 0x80#8) : transferKind c = some .sectorRead := by
  rw [← transferKind_and (mask := 0xE0#8) rfl, h]
  rfl

theorem transferKind_of_writeSector {c : Byte} (h : c &&& 0xE0#8 = 0xA0#8) : transferKind c = some .sectorWrite := by
  rw [← transferKind_and (mask := 0xE0#8) rfl, h]
  rfl

theorem transferKind_of_readAddress {c : Byte} (h : c &&& 0xF0#8 = 0xC0#8) : transferKind c = some .idRead := by
  rw [← transferKind_and (mask := 0xF0#8) rfl, h]
  rfl

theorem transferKind_rdsecByte (m hs e pc b0 : Bool) : transferKind (rdsecByte m hs e pc b0) = some .sectorRead := by
  decide +revert

theorem transferKind_wrsecByte (m hs e pc a0 : Bool) : transferKind (wrsecByte m hs e pc a0) = some .sectorWrite := by
  decide +revert

theorem transferKind_rdaddrByte (hs e b1 b0 : Bool) : transferKind (rdaddrByte hs e b1 b0) = some .idRead := by
  decide +revert

/-! #### Ending a command and starting a transfer -/

section
variable {s : State}

theorem fdcChanges_aside {f : Fdc} (image : s.fdc.SameImage f) (head : f.currentTrack = s.fdc.currentTrack)
    (flags : s.fdc.SameFlags f) (pos : f.bufPos = s.fdc.bufPos) (command : f.commandRegister = s.fdc.commandRegister) :
    FdcChanges s (s.setFdc f) := FdcChange.setFdc (.aside image head flags pos command)

theorem endCommand_changes {st : Byte} (hb : s.fdc.busy = false) (hst : st.getLsbD 0 = false) :
    FdcChanges s (endCommand st s) :=
  FdcChange.setFdc
    (.idle hb (.refl s.fdc) (.inl rfl) rfl rfl fun h => absurd (hst.symm.trans h) Bool.false_ne_true)

theorem startTransfer_changes (hk : (transferKind s.fdc.commandRegister).isSome = true)
    (hw : transferKind s.fdc.commandRegister = some .sectorWrite → s.fdc.Writable) :
    FdcChanges s (startTransfer s) := by
  obtain ⟨hbit0, hbit1⟩ := transferStatus_getLsbD s.params
  exact FdcChange.setFdc (.start (.refl s.fdc) rfl ⟨Nat.zero_lt_succ _, rfl, hbit0, hbit1, hk, hw⟩)

/-! #### Type I -/

theorem typeIEnd_changes (v : Bool) (hb : s.fdc.busy = false) : FdcChanges s (typeIEnd v s) := by
  have hdraw := (keepsBlocks_indexNext s).fdcChanges
  refine hdraw.trans (FdcChange.setFdc (.idle ?_ ?_ ?_ ?_ ?_ fun h => ?_))
  · simpa using hb
  · rw [State.indexNext_fdc]
    exact .refl s.fdc
  · rw [State.indexNext_fdc]
    exact .inl rfl
  · rw [State.indexNext_fdc]
  · rw [State.indexNext_fdc]
  · exact absurd ((typeIStatus_getLsbD_zero _ _ _ _).symm.trans h) Bool.false_ne_true

theorem moveHead_le (p : Params) (t : Byte) (d : Int) : moveHead p t d ≤ p.headMax := by
  have hmax : p.headMax.toNat < 256 := p.headMax.isLt
  rw [BitVec.le_def, moveHead, BitVec.toNat_ofInt]
  omega

/-- The head moved and the type I command ended. -/
theorem typeIEnd_setFdc_changes {f : Fdc} (v : Bool) (hb : s.fdc.busy = false) (image : s.fdc.SameImage f)
    (flags : s.fdc.SameFlags f) (pos : f.bufPos = s.fdc.bufPos) (head : f.currentTrack ≤ s.params.headMax) :
    FdcChanges s (typeIEnd v (s.setFdc f)) := by
  obtain ⟨hdrq, hbit0, -⟩ := flags
  have hmove : FdcChanges s (s.setFdc f) :=
    FdcChange.setFdc (.idle hb image (.inr head) pos hdrq fun h => hbit0.symm.trans h)
  refine hmove.trans (typeIEnd_changes v ?_)
  rw [State.setFdc_fdc, Fdc.busy, pos]
  exact hb

theorem cmdRestore_changes (v : Bool) (hb : s.fdc.busy = false) : FdcChanges s (cmdRestore v s) :=
  typeIEnd_setFdc_changes v hb (.refl s.fdc) (.refl s.fdc) rfl (BitVec.le_def.2 (Nat.zero_le _))

theorem cmdSeek_changes (v : Bool) (hb : s.fdc.busy = false) : FdcChanges s (cmdSeek v s) :=
  typeIEnd_setFdc_changes v hb (.refl s.fdc) (.refl s.fdc) rfl (moveHead_le _ _ _)

theorem cmdStep_changes (u v : Bool) (hb : s.fdc.busy = false) : FdcChanges s (cmdStep u v s) :=
  typeIEnd_setFdc_changes v hb (.refl s.fdc) (.refl s.fdc) rfl (moveHead_le _ _ _)

theorem cmdStepIn_changes (u v : Bool) (hb : s.fdc.busy = false) : FdcChanges s (cmdStepIn u v s) :=
  typeIEnd_setFdc_changes v hb (.refl s.fdc) (.refl s.fdc) rfl (moveHead_le _ _ _)

theorem cmdStepOut_changes (u v : Bool) (hb : s.fdc.busy = false) : FdcChanges s (cmdStepOut u v s) :=
  typeIEnd_setFdc_changes v hb (.refl s.fdc) (.refl s.fdc) rfl (moveHead_le _ _ _)

/-! #### Types II and III -/

/-- The side select moves neither the transfer, the image nor the head. -/
theorem selectSide_changes (hs pc : Bool) (s : State) :
    FdcChanges s (selectSide hs pc s) ∧ (selectSide hs pc s).fdc.busy = s.fdc.busy
      ∧ (selectSide hs pc s).fdc.commandRegister = s.fdc.commandRegister := by
  unfold selectSide
  split
  · exact ⟨fdcChanges_aside (.refl s.fdc) rfl (.refl s.fdc) rfl rfl, rfl, rfl⟩
  · exact ⟨.refl s, rfl, rfl⟩

theorem setXferOffset_changes (off : Nat) (s : State) :
    FdcChanges s (s.setFdc { s.fdc with xferOffset := off }) :=
  fdcChanges_aside (.refl s.fdc) rfl (.refl s.fdc) rfl rfl

/-- A sector read into the buffer starts the transfer. -/
theorem startRead_changes (bs : List Byte) (hk : transferKind s.fdc.commandRegister = some .sectorRead) :
    FdcChanges s (startTransfer (s.setFdc { s.fdc with buf := Memory.ofBytes bs })) := by
  have hbuf : FdcChanges s (s.setFdc { s.fdc with buf := Memory.ofBytes bs }) :=
    fdcChanges_aside (.refl s.fdc) rfl (.refl s.fdc) rfl rfl
  refine hbuf.trans (startTransfer_changes (Option.isSome_of_eq_some hk) fun hw => ?_)
  exact absurd (hk.symm.trans hw) (by decide)

theorem cmdReadSector_changes (hs pc : Bool) (hb : s.fdc.busy = false)
    (hk : transferKind s.fdc.commandRegister = some .sectorRead) : FdcChanges s (cmdReadSector hs pc s) := by
  obtain ⟨hsel, hbusy, hcmd⟩ := selectSide_changes hs pc s
  rw [← hbusy] at hb
  rw [← hcmd] at hk
  unfold cmdReadSector
  dsimp only
  generalize selectSide hs pc s = s1 at hsel hb hk
  split
  · exact hsel.trans (endCommand_changes hb (notFoundStatus_getLsbD_zero _))
  split
  · have hoff := hsel.trans (setXferOffset_changes (sectorOffset s1.fdc) s1)
    split
    · next bs s2 hread =>
      have hkeep := keepsBlocks_of_memRead_eq hread
      refine (hoff.trans hkeep.fdcChanges).trans (startRead_changes bs ?_)
      rw [hkeep.fdc]
      exact hk
    · next s2 _ hread =>
      have hkeep := keepsBlocks_of_memRead_eq hread
      refine (hoff.trans hkeep.fdcChanges).trans (endCommand_changes ?_ (crcErrorStatus_getLsbD_zero _))
      rw [hkeep.fdc]
      exact hb
  · exact hsel.trans (endCommand_changes hb (notFoundStatus_getLsbD_zero _))

theorem writable_of_not_writeProtected {f : Fdc} (h : ¬ writeProtected f = true) : f.Writable := by
  simpa [writeProtected, Fdc.Writable, Option.isSome_iff_ne_none, not_or] using h

theorem cmdWriteSector_changes (hs pc : Bool) (hb : s.fdc.busy = false)
    (hk : transferKind s.fdc.commandRegister = some .sectorWrite) : FdcChanges s (cmdWriteSector hs pc s) := by
  obtain ⟨hsel, hbusy, hcmd⟩ := selectSide_changes hs pc s
  rw [← hbusy] at hb
  rw [← hcmd] at hk
  unfold cmdWriteSector
  dsimp only
  generalize selectSide hs pc s = s1 at hsel hb hk
  split
  · exact hsel.trans (endCommand_changes hb (protectedStatus_getLsbD_zero _))
  next hwp =>
  split
  · have hoff := hsel.trans (setXferOffset_changes (sectorOffset s1.fdc) s1)
    exact hoff.trans (startTransfer_changes (Option.isSome_of_eq_some hk) fun _ => writable_of_not_writeProtected hwp)
  · exact hsel.trans (endCommand_changes hb (notFoundStatus_getLsbD_zero _))

theorem cmdReadAddress_changes (hb : s.fdc.busy = false) (hk : transferKind s.fdc.commandRegister = some .idRead) :
    FdcChanges s (cmdReadAddress s) := by
  obtain ⟨hbit0, hbit1⟩ := addressStatus_getLsbD s.params
  unfold cmdReadAddress
  split
  · refine FdcChange.setFdc
      (.start (.refl s.fdc) rfl
        ⟨(by decide : 506 < fdcSector), rfl, hbit0, hbit1, Option.isSome_of_eq_some hk, fun hw => ?_⟩)
    exact absurd (hk.symm.trans hw) (by decide)
  · exact endCommand_changes hb (notFoundStatus_getLsbD_zero _)

theorem cmdReadTrack_changes (hb : s.fdc.busy = false) : FdcChanges s (cmdReadTrack s) :=
  endCommand_changes hb rfl

theorem cmdWriteTrack_changes (hb : s.fdc.busy = false) : FdcChanges s (cmdWriteTrack s) :=
  endCommand_changes hb (writeTrackStatus_getLsbD_zero _ _)

/-! #### Type IV and the command write -/

theorem flushPartial_changes (s : State) : FdcChanges s (flushPartial s) := by
  have hpad : FdcChanges s (s.setFdc s.fdc.padded) := fdcChanges_aside (.refl s.fdc) rfl (.refl s.fdc) rfl rfl
  have hwrite := hpad.trans (imageWrite_keepsBlocks s.fdc.padded (s.setFdc s.fdc.padded)).fdcChanges
  unfold flushPartial
  dsimp only
  split
  · refine hwrite.trans (fdcChanges_aside (.refl _) rfl ⟨rfl, ?_, ?_⟩ rfl rfl)
    · exact (BitVec.getLsbD_or ..).trans (Bool.or_false _)
    · exact (BitVec.getLsbD_or ..).trans (Bool.or_false _)
  · exact hwrite

/-- A running write transfer with a byte goes out to the image, anything else stays. -/
theorem flushIfPartial_changes (s : State) : FdcChanges s (if partialWrite s.fdc then flushPartial s else s) := by
  split
  · exact flushPartial_changes s
  · exact .refl s

theorem resting_of_stopped (f : Fdc) (i d : Bool) :
    Fdc.Resting { f with
      bufPos := fdcSector, dataRequestFlag := false, statusRegister := clearBusyDrq f.statusRegister,
      interruptRequestFlag := i, forceIntPending := d } :=
  ⟨rfl, rfl, clearBusyDrq_getLsbD_zero _⟩

theorem forceInterrupt_changes (i3 i2 : Bool) (s : State) : FdcChanges s (forceInterrupt i3 i2 s) := by
  have hflags : FdcChanges s (s.setFdc { s.fdc with interruptRequestFlag := false, forceIntPending := false }) :=
    fdcChanges_aside (.refl s.fdc) rfl (.refl s.fdc) rfl rfl
  exact (hflags.trans (flushIfPartial_changes _)).trans
    (FdcChange.setFdc (.rest (.refl _) (.inl rfl) (resting_of_stopped _ _ _)))

theorem forceInterrupt_busy (i3 i2 : Bool) (s : State) : (forceInterrupt i3 i2 s).fdc.busy = false :=
  (resting_of_stopped _ _ _).busy

theorem loadCommand_changes (c : Byte) (hb : s.fdc.busy = false) : FdcChanges s (loadCommand c s) :=
  FdcChange.setFdc (.idle hb (.refl s.fdc) (.inl rfl) rfl rfl id)

/-- What a command body does once its byte is in the register and no transfer is running. -/
def BodyChanges (c : Byte) (body : State → State) : Prop :=
  ∀ u : State, u.fdc.busy = false → u.fdc.commandRegister = c → FdcChanges u (body u)

theorem acceptCommand_changes {c : Byte} {body : State → State} (hbody : BodyChanges c body) (s : State) :
    FdcChanges s (acceptCommand c body s) := by
  by_cases hpos : s.fdc.bufPos < fdcSector
  · cases hp : s.params.cmdWhileBusy with
    | fault =>
      rw [acceptCommand_fault hpos hp]
      exact fdcChanges_aside (.refl s.fdc) rfl (.refl s.fdc) rfl rfl
    | abortAndExecute =>
      rw [acceptCommand_abort hpos hp]
      have hb := forceInterrupt_busy false false s
      exact ((forceInterrupt_changes false false s).trans (loadCommand_changes c hb)).trans (hbody _ hb rfl)
  · rw [acceptCommand_idle (Nat.le_of_not_lt hpos)]
    have hb : s.fdc.busy = false := Fdc.busy_false_iff.2 (Nat.le_of_not_lt hpos)
    exact (loadCommand_changes c hb).trans (hbody _ hb rfl)

theorem acceptForce_changes (c : Byte) (i3 i2 : Bool) (s : State) : FdcChanges s (acceptForce c i3 i2 s) := by
  have hphase : FdcChanges s (s.setFdc { s.fdc with busyHackPhase := true }) :=
    fdcChanges_aside (.refl s.fdc) rfl (.refl s.fdc) rfl rfl
  refine (hphase.trans (forceInterrupt_changes i3 i2 _)).trans (FdcChange.setFdc ?_)
  exact .idle (forceInterrupt_busy i3 i2 _) (.refl _) (.inl rfl) rfl rfl id

theorem execute_changes (c : Byte) : BodyChanges c (execute c) := by
  intro u hb hc
  refine iteInduction (motive := FdcChanges u) (fun _ => cmdRestore_changes _ hb) fun _ => ?_
  refine iteInduction (fun _ => cmdSeek_changes _ hb) fun _ => ?_
  refine iteInduction (fun _ => cmdStep_changes _ _ hb) fun _ => ?_
  refine iteInduction (fun _ => cmdStepIn_changes _ _ hb) fun _ => ?_
  refine iteInduction (fun _ => cmdStepOut_changes _ _ hb) fun _ => ?_
  refine iteInduction (fun h => cmdReadSector_changes _ _ hb (hc ▸ transferKind_of_readSector h)) fun _ => ?_
  refine iteInduction (fun h => cmdWriteSector_changes _ _ hb (hc ▸ transferKind_of_writeSector h)) fun _ => ?_
  refine iteInduction (fun h => cmdReadAddress_changes hb (hc ▸ transferKind_of_readAddress h)) fun _ => ?_
  refine iteInduction (fun _ => forceInterrupt_changes _ _ u) fun _ => ?_
  exact iteInduction (fun _ => cmdReadTrack_changes hb) fun _ => cmdWriteTrack_changes hb

theorem writeCommand_changes (c : Byte) (s : State) : FdcChanges s (writeCommand c s) := by
  unfold writeCommand
  split
  · exact acceptForce_changes _ _ _ s
  · exact acceptCommand_changes (execute_changes c) s

/-! #### The data register -/

theorem nextSector_changes (hb : s.fdc.busy = false) : FdcChanges s (nextSector s) := by
  unfold nextSector
  split
  · have hnext : FdcChanges s (s.setFdc { s.fdc with sectorRegister := s.fdc.sectorRegister + 1 }) :=
      fdcChanges_aside (.refl s.fdc) rfl (.refl s.fdc) rfl rfl
    exact hnext.trans (execute_changes _ _ hb rfl)
  · exact FdcChange.setFdc (.idle hb (.refl s.fdc) (.inl rfl) rfl rfl id)

theorem transferOut_end_changes (hend : s.fdc.bufPos + 1 = fdcSector) : FdcChanges s (endBlock (transferOut s)) :=
  FdcChange.setFdc (.rest (.refl s.fdc) (.inl rfl) ⟨hend, rfl, clearBusyDrq_getLsbD_zero _⟩)

theorem transferIn_end_changes (v : Byte) (hend : s.fdc.bufPos + 1 = fdcSector) :
    FdcChanges s (endBlock (transferIn v s)) :=
  FdcChange.setFdc (.rest (.refl s.fdc) (.inl rfl) ⟨hend, rfl, clearBusyDrq_getLsbD_zero _⟩)

theorem endReadAddress_changes (hend : s.fdc.bufPos + 1 = fdcSector) :
    FdcChanges s (endReadAddress (transferOut s)) :=
  FdcChange.setFdc (.rest (.refl s.fdc) (.inl rfl) ⟨hend, rfl, bit5Status_getLsbD_zero _⟩)

theorem endWriteSector_changes (v : Byte) (hend : s.fdc.bufPos + 1 = fdcSector) :
    FdcChanges s (endWriteSector (transferIn v s)) := by
  have hblock : FdcChanges s (endBlock (transferIn v s)) := transferIn_end_changes v hend
  have hbusy : (endBlock (transferIn v s)).fdc.busy = false := Fdc.busy_false_iff.2 (Nat.le_of_eq hend.symm)
  unfold endWriteSector
  dsimp only
  generalize endBlock (transferIn v s) = s1 at hblock hbusy
  have hkeep := imageWrite_keepsBlocks s1.fdc s1
  have hwrite := hblock.trans hkeep.fdcChanges
  have hb : (imageWrite s1.fdc s1).2.fdc.busy = false := by
    rw [hkeep.fdc]
    exact hbusy
  split
  · exact hwrite.trans (endCommand_changes hb (bit5Status_getLsbD_zero _))
  · exact hwrite.trans (nextSector_changes hb)

theorem readData_changes (s : State) : FdcChanges s (readData s) := by
  unfold readData
  split
  · next hrun =>
    obtain ⟨hpos, -⟩ := hrun
    refine .returns ?_ _
    split
    · next hend =>
      exact (transferOut_end_changes hend).trans (nextSector_changes (Fdc.busy_false_iff.2 (Nat.le_of_eq hend.symm)))
    · next hmore =>
      have hlt : s.fdc.bufPos + 1 < fdcSector := Nat.lt_of_le_of_ne hpos hmore
      exact FdcChange.setFdc (.move (.refl s.fdc) rfl (.refl s.fdc) rfl hlt rfl)
  split
  · next hrun =>
    obtain ⟨hpos, -⟩ := hrun
    refine .returns ?_ _
    split
    · next hend => exact endReadAddress_changes hend
    · next hmore =>
      have hlt : s.fdc.bufPos + 1 < fdcSector := Nat.lt_of_le_of_ne hpos hmore
      exact FdcChange.setFdc (.move (.refl s.fdc) rfl (.refl s.fdc) rfl hlt rfl)
  · exact (FdcChanges.refl s).returns _

theorem writeData_changes (v : Byte) (s : State) : FdcChanges s (writeData v s) := by
  have hreg : FdcChanges s (s.setFdc { s.fdc with dataRegister := v }) :=
    fdcChanges_aside (.refl s.fdc) rfl (.refl s.fdc) rfl rfl
  unfold writeData
  dsimp only
  split
  · next hrun =>
    obtain ⟨hpos, -⟩ := hrun
    refine .returns (hreg.trans ?_) _
    split
    · next hend => exact endWriteSector_changes v hend
    · next hmore =>
      have hlt : s.fdc.bufPos + 1 < fdcSector := Nat.lt_of_le_of_ne hpos hmore
      exact FdcChange.setFdc (.move (.refl _) rfl (.refl _) rfl hlt rfl)
  · exact hreg.returns _

/-! #### The other registers -/

theorem readStatus_changes (s : State) : FdcChanges s (readStatus s) := by
  unfold readStatus
  refine .returns ?_ _
  exact fdcChanges_aside (.refl s.fdc) rfl (.refl s.fdc) rfl rfl

theorem writeTrackReg_changes (v : Byte) (s : State) : FdcChanges s (writeTrackReg v s) := by
  unfold writeTrackReg
  refine .returns ?_ _
  exact fdcChanges_aside (.refl s.fdc) rfl (.refl s.fdc) rfl rfl

theorem writeSectorReg_changes (v : Byte) (s : State) : FdcChanges s (writeSectorReg v s) := by
  unfold writeSectorReg
  refine .returns ?_ _
  exact fdcChanges_aside (.refl s.fdc) rfl (.refl s.fdc) rfl rfl

theorem setSide_changes (side : BitVec 1) (s : State) :
    FdcChanges s (s.setFdc { s.fdc with currentSide := side }) :=
  fdcChanges_aside (.refl s.fdc) rfl (.refl s.fdc) rfl rfl

theorem resetFdc_changes (s : State) : FdcChanges s (s.setFdc (s.fdc.resetKeepingImage s.params)) :=
  FdcChange.setFdc
    (.rest ⟨rfl, rfl, rfl, rfl, rfl⟩ (.inr (BitVec.le_def.2 (Nat.zero_le _))) ⟨rfl, rfl, bit7Idle_getLsbD_zero _⟩)

/-! #### Attach (42_fdc_ports.md R320 to R323) -/

theorem endTransfer_changes (s : State) : FdcChanges s (endTransfer s) ∧ (endTransfer s).fdc.busy = false := by
  have hflush := flushIfPartial_changes s
  unfold endTransfer
  dsimp only
  generalize (if partialWrite s.fdc = true then flushPartial s else s) = s1 at hflush
  split
  · have hrest : Fdc.Resting { s1.fdc with
        bufPos := fdcSector, dataRequestFlag := false, statusRegister := clearBusyDrq s1.fdc.statusRegister } :=
      ⟨rfl, rfl, clearBusyDrq_getLsbD_zero _⟩
    exact ⟨hflush.trans (FdcChange.setFdc (.rest (.refl _) (.inl rfl) hrest)), hrest.busy⟩
  · next h => exact ⟨hflush, Fdc.busy_false_iff.2 (Nat.le_of_not_lt h)⟩

theorem fdcGeometryOk_detached (f : Fdc) : FdcGeometryOk f.detached := by
  refine ⟨fun h => ?_, fun _ => ⟨rfl, rfl, rfl, rfl⟩⟩
  exact absurd h Bool.false_ne_true

/-- A transfer ended and the image taken off. -/
theorem detach_changes (s : State) :
    FdcChanges s ((endTransfer s).setFdc (endTransfer s).fdc.detached)
      ∧ ((endTransfer s).setFdc (endTransfer s).fdc.detached).fdc.busy = false := by
  obtain ⟨hend, hb⟩ := endTransfer_changes s
  generalize endTransfer s = s1 at hend hb
  exact ⟨hend.trans (FdcChange.setFdc (.attach hb rfl (.refl _) rfl fun _ => fdcGeometryOk_detached _)), hb⟩

/-- A geometry the FDC can hold: tracks, sides, sectors per track (10_state.md R30). -/
def LegalGeometry (g : Nat × Nat × Nat) : Prop :=
  (1 ≤ g.1 ∧ g.1 ≤ 255) ∧ (1 ≤ g.2.1 ∧ g.2.1 ≤ 2) ∧ 1 ≤ g.2.2 ∧ g.2.2 ≤ 255

theorem bpbGeometry_legal {bs : List Byte} {g : Nat × Nat × Nat} (h : bpbGeometry bs = some g) : LegalGeometry g := by
  unfold bpbGeometry at h
  dsimp only at h
  split at h
  · next hc =>
    obtain ⟨-, hspt, hspt', hheads, -, -, htracks, htracks'⟩ := hc
    obtain rfl := Option.some.inj h
    refine ⟨⟨htracks, htracks'⟩, ?_, hspt, hspt'⟩
    dsimp only
    omega
  · cases h

theorem sizeGeometry_legal {p : Params} {len : Nat} {g : Nat × Nat × Nat} (hp : GeometryRowsOk p)
    (h : sizeGeometry p.geometryBySize len = some g) : LegalGeometry g := by
  obtain ⟨r, hr, rfl⟩ := Option.map_eq_some_iff.1 h
  obtain ⟨ht, ht', hs, hs', hn, hn'⟩ := hp r (List.mem_of_find?_eq_some hr)
  exact ⟨⟨ht, ht'⟩, ⟨hs, hs'⟩, hn, hn'⟩

theorem findGeometry_keepsBlocks (id t h n : Nat) (s : State) : KeepsBlocks s (findGeometry id t h n s).2 := by
  unfold findGeometry
  dsimp only
  split
  · split <;> exact .refl s
  · have hread := memRead_keepsBlocks id 0 fdcSector s
    split
    · next hm =>
      rw [hm] at hread
      split <;> exact hread
    · next hm =>
      rw [hm] at hread
      exact hread
    · next hm =>
      rw [hm] at hread
      exact hread

theorem findGeometry_legal {id t h n : Nat} {s u : State} {g : Nat × Nat × Nat} (hp : GeometryRowsOk s.params)
    (hf : findGeometry id t h n s = (.ok g, u)) : LegalGeometry g := by
  have hsize : ∀ v : State,
      ((match sizeGeometry s.params.geometryBySize (s.store id).length with
        | some g => Except.ok g
        | none => .error IoError.badGeometry), v) = (.ok g, u) → LegalGeometry g := by
    intro v hv
    split at hv
    · next hg =>
      obtain rfl := Except.ok.inj (Prod.mk.inj hv).1
      exact sizeGeometry_legal hp hg
    · exact absurd (Prod.mk.inj hv).1 (by simp)
  unfold findGeometry at hf
  dsimp only at hf
  split at hf
  · next hpos =>
    split at hf
    · cases hf
    · next hle =>
      obtain rfl := Except.ok.inj (Prod.mk.inj hf).1
      dsimp only [LegalGeometry]
      omega
  · split at hf
    · split at hf
      · next hg =>
        obtain rfl := Except.ok.inj (Prod.mk.inj hf).1
        exact bpbGeometry_legal hg
      · exact hsize _ hf
    · exact hsize _ hf
    · cases hf

theorem attachDisk_changes {id t h n : Nat} (readOnly : Bool) (hb : s.fdc.busy = false)
    (hg : GeometryRowsOk s.params → LegalGeometry (t, h, n)) : FdcChanges s (attachDisk id readOnly t h n s).2 := by
  unfold attachDisk
  split
  · refine FdcChange.setFdc (.attach hb rfl (.refl s.fdc) rfl fun hp => ⟨fun _ => ?_, fun hnone => by cases hnone⟩)
    obtain ⟨ht, hh, hn⟩ := hg hp
    simp only [BitVec.toNat_ofNat]
    dsimp only at ht hh hn
    omega
  · exact .refl s

theorem setDiskImageFile_changes (file : Option Nat) (readOnly : Bool) (t h n : Nat) (s : State) :
    FdcChanges s (setDiskImageFile file readOnly t h n s).2 := by
  obtain ⟨hdetach, hb⟩ := detach_changes s
  unfold setDiskImageFile
  dsimp only
  generalize (endTransfer s).setFdc (endTransfer s).fdc.detached = s2 at hdetach hb
  split
  · exact hdetach
  next id =>
  have hkeep := findGeometry_keepsBlocks id t h n s2
  split
  · next t' h' n' s3 hf =>
    rw [hf] at hkeep
    refine (hdetach.trans hkeep.fdcChanges).trans (attachDisk_changes readOnly ?_ fun hp => ?_)
    · rw [hkeep.fdc]
      exact hb
    · rw [hkeep.params] at hp
      exact findGeometry_legal hp hf
  · next k s3 hf =>
    rw [hf] at hkeep
    exact hdetach.trans hkeep.fdcChanges

end

end Sys2Proof.Machine

/-! ### The operations of the tape deck: what they leave unchanged

Reading, writing, flushing and opening a tape touch the host's files and the draws only; the deck changes where the tape
is put back. -/

namespace Sys2Proof.Machine

/-! #### Native blocks (44_tape.md R432, R433) -/

theorem loadBlock_keepsBlocks (t : Tape) (b : Nat) (s : State) : KeepsBlocks s (loadBlock t b s).2 := by
  unfold loadBlock
  dsimp only
  split
  · exact .refl s
  split
  · next h => exact keepsBlocks_of_memRead_eq h
  · next h => exact keepsBlocks_of_memRead_eq h

theorem writeBack_keepsBlocks (t : Tape) (n : NativeTape) (s : State) : KeepsBlocks s (writeBack t n s).2 := by
  unfold writeBack
  split
  · split
    · unfold writeBlock
      split
      · exact .refl s
      · exact memWrite_keepsBlocks _ _ _ s
    · exact .refl s
  · exact .refl s

theorem bringIn_keepsBlocks (t : Tape) (n : NativeTape) (b : Nat) (s : State) :
    KeepsBlocks s (bringIn t n b s).2.2 := by
  obtain ⟨-, h⟩ | ⟨-, h⟩ := bringIn_cases t n b s <;> rw [h]
  · exact .refl s
  · exact (writeBack_keepsBlocks t n s).trans (loadBlock_keepsBlocks t b _)

theorem writeCues_keepsBlocks (t : Tape) (s : State) : KeepsBlocks s (writeCues t s).2 := by
  unfold writeCues
  split
  · exact memWrite_keepsBlocks _ _ _ s
  · exact .refl s

/-! #### Frame blocks (44_tape.md R452) -/

theorem loadFrames_keepsBlocks (t : Tape) (f : SoundTape) (b : Nat) (s : State) :
    KeepsBlocks s (loadFrames t f b s).2 := by
  unfold loadFrames
  dsimp only
  split
  · exact .refl s
  split
  · exact keepsBlocks_ioNext s
  · exact keepsBlocks_ioNext s

theorem writeBackFrames_keepsBlocks (t : Tape) (f : SoundTape) (s : State) :
    KeepsBlocks s (writeBackFrames t f s).2 := by
  unfold writeBackFrames
  split
  · split
    · unfold writeFrames
      split
      · exact .refl s
      · exact putSound_keepsBlocks _ _ s
    · exact .refl s
  · exact .refl s

/-- Everything bringing a frame block in can do: nothing when it is resident; else the dirty block is written back and the
other block loaded. -/
theorem bringInFrames_cases (t : Tape) (f : SoundTape) (b : Nat) (s : State) :
    f.frameBlockIndex = some b ∧ bringInFrames t f b s = (false, f, s)
      ∨ f.frameBlockIndex ≠ some b
          ∧ bringInFrames t f b s = ((writeBackFrames t f s).1,
              { f with
                frameBuf := (loadFrames t f b (writeBackFrames t f s).2).1, frameBlockIndex := some b,
                frameBlockDirty := false },
              (loadFrames t f b (writeBackFrames t f s).2).2) := by
  unfold bringInFrames
  split
  · exact .inl ⟨‹_›, rfl⟩
  · exact .inr ⟨‹_›, rfl⟩

theorem bringInFrames_keepsBlocks (t : Tape) (f : SoundTape) (b : Nat) (s : State) :
    KeepsBlocks s (bringInFrames t f b s).2.2 := by
  obtain ⟨-, h⟩ | ⟨-, h⟩ := bringInFrames_cases t f b s <;> rw [h]
  · exact .refl s
  · exact (writeBackFrames_keepsBlocks t f s).trans (loadFrames_keepsBlocks t f b _)

/-! #### A tape of any format -/

theorem readSample_keepsBlocks (t : Tape) (i : Nat) (s : State) : KeepsBlocks s (readSample t i s).2.2.2 := by
  unfold readSample
  split
  · exact bringIn_keepsBlocks _ _ _ s
  · exact .refl s
  · exact bringInFrames_keepsBlocks _ _ _ s

theorem writeSample_keepsBlocks (t : Tape) (i : Nat) (v : Byte) (s : State) :
    KeepsBlocks s (writeSample t i v s).2.2 := by
  unfold writeSample
  split
  · exact bringIn_keepsBlocks _ _ _ s
  · exact .refl s
  · exact bringInFrames_keepsBlocks _ _ _ s

theorem flushMedium_keepsBlocks (t : Tape) (s : State) : KeepsBlocks s (flushMedium t s).2.2 := by
  unfold flushMedium
  split
  · exact (writeBack_keepsBlocks t _ s).trans (writeCues_keepsBlocks t _)
  · exact .refl s
  · exact writeBackFrames_keepsBlocks t _ s

theorem keepsOthers_withTape (s : State) (t : Tape) (r : Result) : KeepsOthers .tape s (s.withTape t r) :=
  (keepsOthers_setTape s (some t)).returns r

theorem flushInto_keepsOthers (t : Tape) (s : State) : KeepsOthers .tape s (flushInto t s) := by
  have hflush := ((flushMedium_keepsBlocks t s).keepsOthers .tape).trans
    (keepsOthers_setTape _ (some (flushMedium t s).2.1))
  unfold flushInto
  dsimp only
  split
  · exact hflush.raise _
  · exact hflush.returns _

theorem endTick_keepsOthers (failed : Bool) (t : Tape) (s : State) : KeepsOthers .tape s (endTick failed t s) := by
  unfold endTick
  split
  · exact (keepsOthers_setTape s _).raise _
  · exact keepsOthers_withTape s _ _

theorem tick_keepsOthers (t : Tape) (s : State) : KeepsOthers .tape s (tick t s) := by
  unfold tick
  split
  · split
    · exact keepsOthers_withTape s _ _
    · exact ((writeSample_keepsBlocks _ _ _ s).keepsOthers _).trans (endTick_keepsOthers _ _ _)
  split
  · exact ((readSample_keepsBlocks _ _ s).keepsOthers _).trans (endTick_keepsOthers _ _ _)
  · exact keepsOthers_withTape s _ _

/-! #### Open and close (44_tape.md R400, R401, R425, R441, R450) -/

theorem openNative_keepsBlocks (a : OpenArgs) (base : Tape) (s : State) : KeepsBlocks s (openNative a base s).2 := by
  unfold openNative
  split
  · split
    · exact .refl s
    · dsimp only
      split <;> exact memWrite_keepsBlocks _ _ _ s
  split
  · next h => exact keepsBlocks_of_memRead_eq h
  · next h => exact keepsBlocks_of_memRead_eq h
  · next h => split <;> exact keepsBlocks_of_memRead_eq h

theorem readPulseData_keepsBlocks (id : Nat) (s : State) : KeepsBlocks s (readPulseData id s).2 := by
  unfold readPulseData
  dsimp only
  split
  · exact .refl s
  · exact memRead_keepsBlocks _ _ _ s

theorem openLegacyTap_keepsBlocks (a : OpenArgs) (base : Tape) (s : State) :
    KeepsBlocks s (openLegacyTap a base s).2 := by
  unfold openLegacyTap
  split
  · exact .refl s
  split
  · next h => exact keepsBlocks_of_memRead_eq h
  · next h => exact keepsBlocks_of_memRead_eq h
  · next s1 hhead =>
    have h1 := keepsBlocks_of_memRead_eq hhead
    split
    · exact h1
    · have hdata := readPulseData_keepsBlocks a.store s1
      split
      · next h =>
        rw [h] at hdata
        exact h1.trans hdata
      · next h =>
        rw [h] at hdata
        exact h1.trans hdata

theorem openSoundFile_keepsBlocks (a : OpenArgs) (base : Tape) (s : State) :
    KeepsBlocks s (openSoundFile a base s).2 := by
  unfold openSoundFile
  split
  · split
    · exact .refl s
    · dsimp only
      split <;> exact putSound_keepsBlocks _ _ s
  split
  · exact keepsBlocks_ioNext s
  split
  · exact keepsBlocks_ioNext s
  · split <;> exact keepsBlocks_ioNext s

theorem openFormat_keepsBlocks (a : OpenArgs) (s : State) : KeepsBlocks s (openFormat a s).2 := by
  unfold openFormat
  split
  · exact openNative_keepsBlocks a _ s
  · exact openLegacyTap_keepsBlocks a _ s
  · exact openSoundFile_keepsBlocks a _ s

theorem closeTape_keepsOthers (s : State) : KeepsOthers .tape s (closeTape s) := by
  unfold closeTape
  split
  · exact .refl _ s
  · exact ((flushMedium_keepsBlocks _ s).keepsOthers _).trans (keepsOthers_setTape _ _)

theorem openTape_keepsOthers (a : OpenArgs) (s : State) : KeepsOthers .tape s (openTape a s) := by
  have hclose := closeTape_keepsOthers s
  have hopen := (openFormat_keepsBlocks a (closeTape s)).keepsOthers .tape
  unfold openTape
  dsimp only
  split
  · split
    · next h =>
      rw [h] at hopen
      exact (hclose.trans hopen).trans (keepsOthers_withTape _ _ _)
    · next h =>
      rw [h] at hopen
      exact (hclose.trans hopen).raise _
  · exact hclose.raise _

end Sys2Proof.Machine

/-! ### The cursor of a LegacyTap tape

Advancing in two parts is advancing at once (44_tape.md R443): the fuel of `advance` bounds the half-waves that are left,
so it never runs out. -/

namespace Sys2Proof.Machine

/-- A bound on the half-waves a cursor can still begin or end: two for each byte left, the one pending and the one
running. -/
def TapCursor.halvesLeft (data : List Byte) (c : TapCursor) : Nat :=
  2 * (data.length - c.dpos) + (if c.pendingHalf.isSome then 1 else 0) + (if c.halfRemaining.isSome then 1 else 0)

theorem readPulse_pos {bs : List Byte} {len k : Nat} (h : readPulse bs = some (len, k)) : 1 ≤ k := by
  unfold readPulse at h
  split at h
  · cases h
  split at h
  · cases h
    exact Nat.le_refl 1
  split at h
  · cases h
    omega
  · cases h

/-- A pulse is read only where bytes are left. -/
theorem readPulse_drop_pos {data : List Byte} {p len k : Nat} (h : readPulse (data.drop p) = some (len, k)) :
    p < data.length ∧ 1 ≤ k := by
  refine ⟨?_, readPulse_pos h⟩
  by_contra hge
  rw [List.drop_eq_nil_of_le (Nat.le_of_not_lt hge)] at h
  cases h

/-- The next half-wave does not depend on how much of the last one is left. -/
theorem nextHalf_halfRemaining (v : TapVersion) (data : List Byte) (c : TapCursor) (r : Option Nat) :
    nextHalf v data { c with halfRemaining := r } = nextHalf v data c := by
  cases c with
  | mk dpos half level pending =>
    cases pending with
    | some h => rfl
    | none => rfl

/-- A half-wave begun uses up one of those left, beside the one that has ended. -/
theorem halvesLeft_nextHalf_le (v : TapVersion) (data : List Byte) (c : TapCursor) :
    (nextHalf v data c).halvesLeft data ≤ 2 * (data.length - c.dpos) + (if c.pendingHalf.isSome then 1 else 0) := by
  unfold nextHalf
  cases hp : c.pendingHalf with
  | some h => simp [TapCursor.halvesLeft]
  | none =>
    dsimp only
    cases hr : readPulse (data.drop c.dpos) with
    | none => simp [TapCursor.halvesLeft]
    | some pulse =>
      obtain ⟨len, k⟩ := pulse
      obtain ⟨hlt, hk⟩ := readPulse_drop_pos hr
      cases v <;> simp [TapCursor.halvesLeft] <;> omega

theorem halvesLeft_nextHalf_lt {v : TapVersion} {data : List Byte} {c : TapCursor} {h : Nat} (level : Bool)
    (hc : c.halfRemaining = some h) :
    (nextHalf v data { c with level := level }).halvesLeft data < c.halvesLeft data := by
  have hle := halvesLeft_nextHalf_le v data { c with level := level }
  have hleft : c.halvesLeft data
      = 2 * (data.length - c.dpos) + (if c.pendingHalf.isSome then 1 else 0) + 1 := by
    simp [TapCursor.halvesLeft, hc]
  dsimp only at hle
  omega

theorem advanceFrom_of_none {v : TapVersion} {data : List Byte} {c : TapCursor} (hc : c.halfRemaining = none)
    (fuel adv : Nat) : advanceFrom v data fuel adv c = c := by
  cases fuel with
  | zero => rfl
  | succ k => rw [advanceFrom, hc]

/-- The running half-wave ends within the advance. -/
theorem advanceFrom_of_le {v : TapVersion} {data : List Byte} {c : TapCursor} {h adv : Nat} (hc : c.halfRemaining = some h)
    (hle : h ≤ adv) (fuel : Nat) :
    advanceFrom v data (fuel + 1) adv c
      = advanceFrom v data fuel (adv - h) (nextHalf v data { c with level := !c.level }) := by
  simp only [advanceFrom, hc, if_pos hle]

/-- The running half-wave outlasts the advance. -/
theorem advanceFrom_of_lt {v : TapVersion} {data : List Byte} {c : TapCursor} {h adv : Nat} (hc : c.halfRemaining = some h)
    (hlt : adv < h) (fuel : Nat) :
    advanceFrom v data (fuel + 1) adv c = { c with halfRemaining := some (h - adv) } := by
  simp only [advanceFrom, hc, if_neg (Nat.not_le_of_lt hlt)]

/-- A cursor whose half-wave runs has a half-wave left, so its fuel is not 0. -/
theorem halvesLeft_pos {data : List Byte} {c : TapCursor} {h : Nat} (hc : c.halfRemaining = some h) :
    0 < c.halvesLeft data := by
  simp [TapCursor.halvesLeft, hc]

/-- Any fuel that covers the half-waves left gives the same cursor. -/
theorem advanceFrom_fuel {v : TapVersion} {data : List Byte} {fuel fuel' adv : Nat} {c : TapCursor}
    (h : c.halvesLeft data ≤ fuel) (h' : c.halvesLeft data ≤ fuel') :
    advanceFrom v data fuel adv c = advanceFrom v data fuel' adv c := by
  induction fuel generalizing fuel' adv c with
  | zero =>
    cases hc : c.halfRemaining with
    | none => rw [advanceFrom_of_none hc, advanceFrom_of_none hc]
    | some r =>
      have := halvesLeft_pos (data := data) hc
      omega
  | succ k ih =>
    cases hc : c.halfRemaining with
    | none => rw [advanceFrom_of_none hc, advanceFrom_of_none hc]
    | some r =>
      have hlt := halvesLeft_nextHalf_lt (v := v) (data := data) (!c.level) hc
      obtain ⟨k', rfl⟩ : ∃ k', fuel' = k' + 1 := ⟨fuel' - 1, by omega⟩
      by_cases hle : r ≤ adv
      · rw [advanceFrom_of_le hc hle, advanceFrom_of_le hc hle]
        exact ih (by omega) (by omega)
      · rw [advanceFrom_of_lt hc (Nat.lt_of_not_le hle), advanceFrom_of_lt hc (Nat.lt_of_not_le hle)]

/-- Two advances in a row are one, with fuel that covers the half-waves left. -/
theorem advanceFrom_advanceFrom {v : TapVersion} {data : List Byte} {fuel fuel' a b : Nat} {c : TapCursor}
    (h : c.halvesLeft data ≤ fuel) (h' : c.halvesLeft data ≤ fuel') :
    advanceFrom v data fuel' b (advanceFrom v data fuel a c) = advanceFrom v data fuel' (a + b) c := by
  induction fuel generalizing a c with
  | zero =>
    cases hc : c.halfRemaining with
    | none => rw [advanceFrom_of_none hc, advanceFrom_of_none hc, advanceFrom_of_none hc]
    | some r =>
      have := halvesLeft_pos (data := data) hc
      omega
  | succ k ih =>
    cases hc : c.halfRemaining with
    | none => rw [advanceFrom_of_none hc, advanceFrom_of_none hc, advanceFrom_of_none hc]
    | some r =>
      have hlt := halvesLeft_nextHalf_lt (v := v) (data := data) (!c.level) hc
      obtain ⟨k', rfl⟩ : ∃ k', fuel' = k' + 1 := ⟨fuel' - 1, by omega⟩
      by_cases hle : r ≤ a
      · rw [advanceFrom_of_le hc hle, advanceFrom_of_le hc (Nat.le_add_right_of_le hle), ih (by omega) (by omega),
          show a + b - r = a - r + b by omega]
        exact advanceFrom_fuel (by omega) (by omega)
      · have hra := Nat.lt_of_not_le hle
        rw [advanceFrom_of_lt hc hra]
        by_cases hle' : r - a ≤ b
        · rw [advanceFrom_of_le rfl hle', advanceFrom_of_le hc (by omega), show b - (r - a) = a + b - r by omega]
          exact congrArg (advanceFrom v data k' (a + b - r)) (nextHalf_halfRemaining v data { c with level := !c.level } _)
        · rw [advanceFrom_of_lt rfl (Nat.lt_of_not_le hle'), advanceFrom_of_lt hc (by omega),
            show r - a - b = r - (a + b) by omega]

/-- Two advances in a row are one (44_tape.md R443). -/
theorem advance_advance {v : TapVersion} {data : List Byte} {a b : Nat} {c : TapCursor}
    (h : c.halvesLeft data ≤ 2 * data.length + 3) :
    advance v data b (advance v data a c) = advance v data (a + b) c := advanceFrom_advanceFrom h h

/-- The cursor one sample on is the cursor of the next sample (44_tape.md R440, R443). -/
theorem advance_cursorAt (v : TapVersion) (data : List Byte) (p : Nat) :
    advance v data c16Downsample (cursorAt v data p) = cursorAt v data (p + 1) := by
  have hleft : (nextHalf v data cursorStart).halvesLeft data ≤ 2 * data.length + 3 := by
    have hle : _ ≤ 2 * (data.length - 0) + 0 := halvesLeft_nextHalf_le v data cursorStart
    omega
  unfold cursorAt
  rw [advance_advance hleft, Nat.mul_add_one]

end Sys2Proof.Machine

/-! ### The tape invariants, format by format -/

namespace Sys2Proof.Machine

/-! #### Samples within their resolution (10_state.md R36, R37) -/

theorem lowBits_lt (r : Nat) (v : Byte) : (lowBits r v).toNat < 2 ^ r := by
  rw [lowBits, BitVec.toNat_ofNat]
  exact Nat.lt_of_le_of_lt (Nat.mod_le _ _) (Nat.mod_lt _ (Nat.two_pow_pos r))

theorem requantize_lt {fromBits : Nat} {v : Byte} (hv : v.toNat < 2 ^ fromBits) (toBits : Nat) :
    (requantize fromBits toBits v).toNat < 2 ^ toBits := by
  unfold requantize
  split
  · next hle =>
    rw [BitVec.toNat_shiftLeft, Nat.shiftLeft_eq]
    calc v.toNat * 2 ^ (toBits - fromBits) % 2 ^ 8
        ≤ v.toNat * 2 ^ (toBits - fromBits) := Nat.mod_le _ _
      _ < 2 ^ fromBits * 2 ^ (toBits - fromBits) := Nat.mul_lt_mul_of_pos_right hv (Nat.two_pow_pos _)
      _ = 2 ^ toBits := by rw [← Nat.pow_add, Nat.add_sub_cancel' hle]
  · next hgt =>
    rw [BitVec.toNat_ushiftRight, Nat.shiftRight_eq_div_pow]
    refine Nat.div_lt_of_lt_mul ?_
    rwa [← Nat.pow_add, Nat.sub_add_cancel (Nat.le_of_not_le hgt)]

theorem fromReal_lt (r : Nat) (y : Rat) : (fromReal r y).toNat < 2 ^ r := by
  have hpos := Nat.two_pow_pos r
  rw [fromReal, BitVec.toNat_ofNat]
  refine Nat.lt_of_le_of_lt (Nat.mod_le _ _) (Nat.lt_of_le_of_lt (Nat.min_le_right _ _) ?_)
  omega

theorem levelSample_lt (r : Nat) (level : Bool) : (levelSample r level).toNat < 2 ^ r := by
  refine requantize_lt ?_ r
  cases level <;> decide

theorem zero_lt_two_pow (r : Nat) : (0 : Byte).toNat < 2 ^ r := Nat.two_pow_pos r

/-! #### Native blocks (10_state.md R37) -/

/-- A Native block of samples of `bits` bits, dirty only when resident. -/
def NativeOk (bits : Nat) (n : NativeTape) : Prop :=
  (∀ i, (n.blockBuf.read i).toNat < 2 ^ bits) ∧ (n.blockDirty = true → n.blockIndex.isSome = true)

theorem mediumOk_iff_nativeOk {t : Tape} {n : NativeTape} (hm : t.medium = .native n) :
    MediumOk t ↔ NativeOk t.fileBitsPerSample n := by
  unfold MediumOk
  rw [hm]
  rfl

theorem nativeOk_empty (bits : Nat) : NativeOk bits { blockBuf := [], blockIndex := none, blockDirty := false } :=
  ⟨fun _ => zero_lt_two_pow bits, fun h => absurd h Bool.false_ne_true⟩

theorem unpackBytes_lt {p : SamplePacking} {b : Nat} {bs : List Byte} {v : Byte} (h : v ∈ unpackBytes p b bs) :
    v.toNat < 2 ^ b := by
  obtain ⟨w, -, hw⟩ := List.mem_flatMap.1 h
  obtain ⟨k, -, rfl⟩ := List.mem_map.1 hw
  exact lowBits_lt _ _

theorem read_ofBytes_lt {bound : Nat} {bs : List Byte} (hpos : 0 < bound) (h : ∀ v ∈ bs, v.toNat < bound) (i : Nat) :
    ((Memory.ofBytes bs).read i).toNat < bound := by
  rw [Memory.read_ofBytes, List.getD_eq_getElem?_getD]
  cases hi : bs[i]? with
  | none => exact hpos
  | some v => exact h v (List.mem_of_getElem? hi)

theorem loadBlock_lt (t : Tape) (b : Nat) (s : State) (i : Nat) :
    ((loadBlock t b s).1.read i).toNat < 2 ^ t.fileBitsPerSample := by
  unfold loadBlock
  dsimp only
  split
  · exact zero_lt_two_pow _
  split
  · exact read_ofBytes_lt (Nat.two_pow_pos _) (fun v hv => unpackBytes_lt (List.mem_of_mem_take hv)) i
  · exact zero_lt_two_pow _

theorem bringIn_ok {t : Tape} {n : NativeTape} (hn : NativeOk t.fileBitsPerSample n) (b : Nat) (s : State) :
    NativeOk t.fileBitsPerSample (bringIn t n b s).2.1 ∧ (bringIn t n b s).2.1.blockIndex = some b := by
  obtain ⟨hb, h⟩ | ⟨-, h⟩ := bringIn_cases t n b s <;> rw [h]
  · exact ⟨hn, hb⟩
  · exact ⟨⟨loadBlock_lt t b _, fun h => absurd h Bool.false_ne_true⟩, rfl⟩

theorem readNative_ok {t : Tape} {n : NativeTape} (hn : NativeOk t.fileBitsPerSample n) (i : Nat) (s : State) :
    (readNative t n i s).2.1.toNat < 2 ^ t.requestedBitsPerSample
      ∧ NativeOk t.fileBitsPerSample (readNative t n i s).2.2.1 := by
  obtain ⟨⟨hsamples, hdirty⟩, -⟩ := bringIn_ok hn (i / tapeBlock) s
  exact ⟨requantize_lt (hsamples _) _, hsamples, hdirty⟩

theorem writeNative_ok {t : Tape} {n : NativeTape} {v : Byte} (hn : NativeOk t.fileBitsPerSample n)
    (hv : v.toNat < 2 ^ t.requestedBitsPerSample) (i : Nat) (s : State) :
    NativeOk t.fileBitsPerSample (writeNative t n i v s).2.1 := by
  obtain ⟨⟨hsamples, -⟩, hindex⟩ := bringIn_ok hn (i / tapeBlock) s
  refine ⟨fun k => ?_, fun _ => Option.isSome_of_eq_some hindex⟩
  dsimp only [writeNative]
  rw [Memory.read_write]
  split
  · exact requantize_lt hv _
  · exact hsamples k

/-! #### Frame blocks (10_state.md R39) -/

/-- The channel is one of the container's; a resident block is whole; a dirty one is resident. -/
def SoundOk (f : SoundTape) : Prop :=
  f.channel < f.nChannels ∧ (f.frameBlockIndex.isSome = true → f.frameBuf.length = soundBlock)
    ∧ (f.frameBlockDirty = true → f.frameBlockIndex.isSome = true)

theorem mediumOk_iff_soundOk {t : Tape} {f : SoundTape} (hm : t.medium = .soundFile f) : MediumOk t ↔ SoundOk f := by
  unfold MediumOk
  rw [hm]
  rfl

theorem fitFrames_length (k n : Nat) (xs : List (List Rat)) : (fitFrames k n xs).length = n := by
  simp only [fitFrames, List.length_append, List.length_take, List.length_replicate]
  omega

theorem loadFrames_length (t : Tape) (f : SoundTape) (b : Nat) (s : State) :
    (loadFrames t f b s).1.length = soundBlock := by
  unfold loadFrames
  dsimp only
  split
  · exact fitFrames_length _ _ _
  split
  · exact fitFrames_length _ _ _
  · exact fitFrames_length _ _ _

theorem bringInFrames_ok {f : SoundTape} (hf : SoundOk f) (t : Tape) (b : Nat) (s : State) :
    SoundOk (bringInFrames t f b s).2.1 ∧ (bringInFrames t f b s).2.1.frameBlockIndex = some b := by
  obtain ⟨hb, h⟩ | ⟨-, h⟩ := bringInFrames_cases t f b s <;> rw [h]
  · exact ⟨hf, hb⟩
  · obtain ⟨hchannel, -, -⟩ := hf
    exact ⟨⟨hchannel, fun _ => loadFrames_length _ _ _ _, fun h => absurd h Bool.false_ne_true⟩, rfl⟩

theorem readSound_ok {f : SoundTape} (hf : SoundOk f) (t : Tape) (i : Nat) (s : State) :
    (readSound t f i s).2.1.toNat < 2 ^ t.requestedBitsPerSample ∧ SoundOk (readSound t f i s).2.2.1 :=
  ⟨fromReal_lt _ _, (bringInFrames_ok hf t _ s).1⟩

theorem writeSound_ok {f : SoundTape} (hf : SoundOk f) (t : Tape) (i : Nat) (v : Byte) (s : State) :
    SoundOk (writeSound t f i v s).2.1 := by
  obtain ⟨⟨hchannel, hlen, -⟩, hindex⟩ := bringInFrames_ok hf t (i / soundBlock) s
  refine ⟨hchannel, fun h => ?_, fun _ => Option.isSome_of_eq_some hindex⟩
  exact (List.length_set ..).trans (hlen h)

/-! #### LegacyTap (10_state.md R38, 44_tape.md R440) -/

/-- The fixed rate and resolution, the index within its cap, the cursor at sample `p`. -/
def LegacyOk (bits rate p : Nat) (l : LegacyTape) : Prop :=
  bits = 1 ∧ rate = c16Rate ∧ l.seekIndex.length ≤ c16IndexCap ∧ l.cursor = cursorAt l.version l.pulseData p

theorem mediumOk_iff_legacyOk {t : Tape} {l : LegacyTape} (hm : t.medium = .legacyTap l) :
    MediumOk t ↔ LegacyOk t.fileBitsPerSample t.sampleRate t.tapePosition l := by
  unfold MediumOk
  rw [hm]
  rfl

theorem readLegacy_ok {t : Tape} {l : LegacyTape} (hl : LegacyOk t.fileBitsPerSample t.sampleRate t.tapePosition l) :
    (readLegacy t l).1.toNat < 2 ^ t.requestedBitsPerSample
      ∧ LegacyOk t.fileBitsPerSample t.sampleRate (t.tapePosition + 1) (readLegacy t l).2 := by
  obtain ⟨hbits, hrate, hindex, hcursor⟩ := hl
  refine ⟨levelSample_lt _ _, hbits, hrate, hindex, ?_⟩
  dsimp only [readLegacy]
  rw [hcursor]
  exact advance_cursorAt _ _ _

theorem seekIndexOf_length_le (v : TapVersion) (data : List Byte) : (seekIndexOf v data).length ≤ c16IndexCap := by
  rw [seekIndexOf, List.length_map, List.length_range]
  exact Nat.min_le_left _ _

/-! #### Cue points (10_state.md R36, 30_encoding.md R161) -/

/-- Ascending, at most 1019, below the sentinel. -/
def CuesOk (cs : List Nat) : Prop :=
  cs.Pairwise (fun a b => a < b) ∧ cs.length ≤ cueCap ∧ ∀ c ∈ cs, c < cueSentinel

theorem cuesOk_nil : CuesOk [] := ⟨.nil, Nat.zero_le _, fun _ h => absurd h List.not_mem_nil⟩

theorem CuesOk.filter {cs : List Nat} (h : CuesOk cs) (p : Nat → Bool) : CuesOk (cs.filter p) := by
  obtain ⟨hasc, hlen, hlt⟩ := h
  exact ⟨hasc.filter p, Nat.le_trans (List.length_filter_le _ _) hlen, fun c hc => hlt c (List.mem_of_mem_filter hc)⟩

theorem mem_insertCue {p c : Nat} {cs : List Nat} : c ∈ insertCue p cs ↔ c = p ∨ c ∈ cs := by
  induction cs with
  | nil => simp [insertCue]
  | cons d cs ih =>
    rw [insertCue]
    split
    · simp
    · simp only [List.mem_cons, ih]
      tauto

theorem insertCue_length (p : Nat) (cs : List Nat) : (insertCue p cs).length = cs.length + 1 := by
  induction cs with
  | nil => rfl
  | cons d cs ih =>
    rw [insertCue]
    split
    · rfl
    · rw [List.length_cons, ih, List.length_cons]

theorem insertCue_pairwise {p : Nat} {cs : List Nat} (h : cs.Pairwise (fun a b => a < b)) (hp : p ∉ cs) :
    (insertCue p cs).Pairwise (fun a b => a < b) := by
  induction cs with
  | nil => exact List.pairwise_singleton _ _
  | cons d cs ih =>
    obtain ⟨hd, hcs⟩ := List.pairwise_cons.1 h
    obtain ⟨hne, hnot⟩ := not_or.1 (mt List.mem_cons.2 hp)
    rw [insertCue]
    split
    · next hlt =>
      refine List.pairwise_cons.2 ⟨fun c hc => ?_, h⟩
      obtain rfl | hc := List.mem_cons.1 hc
      · exact hlt
      · exact Nat.lt_trans hlt (hd c hc)
    · next hge =>
      refine List.pairwise_cons.2 ⟨fun c hc => ?_, ih hcs hnot⟩
      obtain rfl | hc := mem_insertCue.1 hc
      · omega
      · exact hd c hc

theorem CuesOk.insertCue {cs : List Nat} {p : Nat} (h : CuesOk cs) (hp : p ∉ cs) (hlen : cs.length < cueCap)
    (hlt : p < cueSentinel) : CuesOk (insertCue p cs) := by
  obtain ⟨hasc, -, hall⟩ := h
  refine ⟨insertCue_pairwise hasc hp, ?_, fun c hc => ?_⟩
  · rw [insertCue_length]
    exact hlen
  · obtain rfl | hc := mem_insertCue.1 hc
    · exact hlt
    · exact hall c hc

theorem slotValues_lt {bs : List Byte} {c : Nat} (h : c ∈ slotValues bs) : c < 2 ^ 32 := by
  induction bs using slotValues.induct with
  | case1 b0 b1 b2 b3 rest ih =>
    rw [slotValues] at h
    obtain rfl | h := List.mem_cons.1 h
    · have h0 := b0.isLt
      have h1 := b1.isLt
      have h2 := b2.isLt
      have h3 := b3.isLt
      simp only [beNat, List.foldl_cons, List.foldl_nil]
      omega
    · exact ih h
  | case2 bs hshort =>
    unfold slotValues at h
    split at h
    · exact absurd rfl (hshort _ _ _ _ _)
    · cases h

theorem keepAscending_sublist (m : Option Nat) (cs : List Nat) : (keepAscending m cs).Sublist cs := by
  induction cs generalizing m with
  | nil => cases m <;> exact List.Sublist.slnil
  | cons c cs ih =>
    cases m with
    | none => exact (ih _).cons_cons c
    | some k =>
      rw [keepAscending]
      split
      · exact (ih _).cons_cons c
      · exact (ih _).cons c

theorem keepAscending_pairwise (m : Option Nat) (cs : List Nat) :
    (keepAscending m cs).Pairwise (fun a b => a < b) ∧ ∀ k, m = some k → ∀ c ∈ keepAscending m cs, k < c := by
  induction cs generalizing m with
  | nil => cases m <;> simp [keepAscending]
  | cons c cs ih =>
    obtain ⟨hasc, hgt⟩ := ih (some c)
    have hcons : (c :: keepAscending (some c) cs).Pairwise (fun a b => a < b) :=
      List.pairwise_cons.2 ⟨hgt c rfl, hasc⟩
    cases m with
    | none => exact ⟨hcons, fun k hk => by cases hk⟩
    | some k =>
      rw [keepAscending]
      split
      · next hlt =>
        refine ⟨hcons, fun k' hk' d hd => ?_⟩
        obtain rfl := Option.some.inj hk'
        obtain rfl | hd := List.mem_cons.1 hd
        · exact hlt
        · exact Nat.lt_trans hlt (hgt c rfl d hd)
      · exact ih (some k)

theorem readCueSlots_ok (bs : List Byte) : CuesOk (readCueSlots bs) := by
  have hsub := keepAscending_sublist none (((slotValues bs).takeWhile fun c => c != cueSentinel).take cueCap)
  refine ⟨(keepAscending_pairwise _ _).1, Nat.le_trans hsub.length_le (List.length_take_le _ _), fun c hc => ?_⟩
  have hwhile := List.mem_of_mem_take (hsub.subset hc)
  have hne : c ≠ cueSentinel := by simpa using List.mem_takeWhile_imp hwhile
  have hlt : c < 2 ^ 32 := slotValues_lt ((List.takeWhile_sublist _).subset hwhile)
  unfold cueSentinel at hne ⊢
  omega

end Sys2Proof.Machine

/-! ### The tape invariants, operation by operation (10_state.md R36, 60_exceptions.md R535) -/

namespace Sys2Proof.Machine

section
variable {t : Tape} {s : State}

/-! #### Updates of a tape -/

/-- The position, the length, the input signal and the medium replaced, each by a legal one. -/
theorem TapeOk.update (h : TapeOk t) {p len : Nat} {v : Byte} {dirty : Bool} {m : Medium} (hp : p ≤ len)
    (hlen : len < 2 ^ 32) (hv : v.toNat < 2 ^ t.requestedBitsPerSample)
    (hlegacy : Tape.isLegacy { t with medium := m } = t.isLegacy)
    (hm : MediumOk { t with tapePosition := p, medium := m }) :
    TapeOk { t with tapePosition := p, tapeLength := len, inputState := v, cueDirty := dirty, medium := m } := by
  obtain ⟨hasc, hcues, hlt, -, -, hrec, hrate, hfile, hreq, -, hout, -⟩ := h
  refine ⟨hasc, hcues, hlt, hp, hlen, fun hr => ?_, hrate, hfile, hreq, hv, hout, hm⟩
  obtain ⟨hplay, hmode, hnot⟩ := hrec hr
  exact ⟨hplay, hmode, hlegacy.trans hnot⟩

/-- The cue points replaced by legal ones. -/
theorem TapeOk.setCues (h : TapeOk t) {cs : List Nat} (hcs : CuesOk cs) (dirty : Bool) :
    TapeOk { t with cuePoints := cs, cueDirty := dirty } := by
  obtain ⟨-, -, -, hrest⟩ := h
  obtain ⟨hasc, hlen, hlt⟩ := hcs
  exact ⟨hasc, hlen, hlt, hrest⟩

/-- The transport flags replaced; recording asks for a tape that may be written. -/
theorem TapeOk.setTransport (h : TapeOk t) {play record motor : Bool}
    (hrecord : record = true → play = true ∧ t.mode ≠ .readOnly ∧ t.isLegacy = false) :
    TapeOk { t with isPlaybackOn := play, isRecordOn := record, isMotorOn := motor } := by
  obtain ⟨hasc, hcues, hlt, hpos, hlen, -, hrest⟩ := h
  exact ⟨hasc, hcues, hlt, hpos, hlen, hrecord, hrest⟩

theorem TapeOk.cues (h : TapeOk t) : CuesOk t.cuePoints := by
  obtain ⟨hasc, hcues, hlt, -⟩ := h
  exact ⟨hasc, hcues, hlt⟩

theorem TapeOk.position (h : TapeOk t) : t.tapePosition ≤ t.tapeLength ∧ t.tapeLength < 2 ^ 32 := by
  obtain ⟨-, -, -, hpos, hlen, -⟩ := h
  exact ⟨hpos, hlen⟩

theorem TapeOk.record (h : TapeOk t) :
    t.isRecordOn = true → t.isPlaybackOn = true ∧ t.mode ≠ .readOnly ∧ t.isLegacy = false := by
  obtain ⟨-, -, -, -, -, hrec, -⟩ := h
  exact hrec

theorem TapeOk.input (h : TapeOk t) : t.inputState.toNat < 2 ^ t.requestedBitsPerSample := by
  obtain ⟨-, -, -, -, -, -, -, -, -, hin, -⟩ := h
  exact hin

theorem TapeOk.output (h : TapeOk t) : t.outputState.toNat < 2 ^ t.requestedBitsPerSample := by
  obtain ⟨-, -, -, -, -, -, -, -, -, -, hout, -⟩ := h
  exact hout

theorem TapeOk.medium (h : TapeOk t) : MediumOk t := by
  obtain ⟨-, -, -, -, -, -, -, -, -, -, -, hm⟩ := h
  exact hm

theorem TapeOk.setInput (h : TapeOk t) {v : Byte} (hv : v.toNat < 2 ^ t.requestedBitsPerSample) :
    TapeOk { t with inputState := v } :=
  h.update h.position.1 h.position.2 hv rfl h.medium

theorem TapeOk.setOutput (h : TapeOk t) {v : Byte} (hv : v.toNat < 2 ^ t.requestedBitsPerSample) :
    TapeOk { t with outputState := v } := by
  obtain ⟨hasc, hcues, hlt, hpos, hlen, hrec, hrate, hfile, hreq, hin, -, hm⟩ := h
  exact ⟨hasc, hcues, hlt, hpos, hlen, hrec, hrate, hfile, hreq, hin, hv, hm⟩

/-- The medium replaced by a legal one of the same format. -/
theorem TapeOk.setMedium (h : TapeOk t) {m : Medium} (dirty : Bool)
    (hlegacy : Tape.isLegacy { t with medium := m } = t.isLegacy) (hm : MediumOk { t with medium := m }) :
    TapeOk { t with cueDirty := dirty, medium := m } :=
  h.update h.position.1 h.position.2 h.input hlegacy hm

theorem isLegacy_of_native {n : NativeTape} (hm : t.medium = .native n) : t.isLegacy = false := by
  rw [Tape.isLegacy, hm]

theorem isLegacy_of_soundFile {f : SoundTape} (hm : t.medium = .soundFile f) : t.isLegacy = false := by
  rw [Tape.isLegacy, hm]

theorem isLegacy_of_legacyTap {l : LegacyTape} (hm : t.medium = .legacyTap l) : t.isLegacy = true := by
  rw [Tape.isLegacy, hm]

/-- Off LegacyTap the medium's invariant does not depend on the position. -/
theorem MediumOk.of_not_legacy (h : MediumOk t) (hl : t.isLegacy = false) (p : Nat) :
    MediumOk { t with tapePosition := p } := by
  cases hm : t.medium with
  | native n => exact (mediumOk_iff_nativeOk hm).1 h
  | legacyTap l => exact absurd ((isLegacy_of_legacyTap hm).symm.trans hl) (by decide)
  | soundFile f => exact (mediumOk_iff_soundOk hm).1 h

/-! #### Flush and positioning -/

theorem flushMedium_ok (h : TapeOk t) (s : State) : TapeOk (flushMedium t s).2.1 := by
  unfold flushMedium
  cases hm : t.medium with
  | native n =>
    obtain ⟨hsamples, -⟩ := (mediumOk_iff_nativeOk hm).1 h.medium
    exact h.setMedium _ (isLegacy_of_native hm).symm ⟨hsamples, fun hd => absurd hd Bool.false_ne_true⟩
  | legacyTap l => exact h
  | soundFile f =>
    obtain ⟨hchannel, hlen, -⟩ := (mediumOk_iff_soundOk hm).1 h.medium
    exact h.setMedium _ (isLegacy_of_soundFile hm).symm ⟨hchannel, hlen, fun hd => absurd hd Bool.false_ne_true⟩

theorem moveTo_ok (h : TapeOk t) {p : Nat} (hp : p ≤ t.tapeLength) : TapeOk (t.moveTo p) := by
  unfold Tape.moveTo
  cases hm : t.medium with
  | native n =>
    exact h.update hp h.position.2 h.input (isLegacy_of_native hm).symm ((mediumOk_iff_nativeOk hm).1 h.medium)
  | legacyTap l =>
    obtain ⟨hbits, hrate, hindex, -⟩ := (mediumOk_iff_legacyOk hm).1 h.medium
    exact h.update hp h.position.2 h.input (isLegacy_of_legacyTap hm).symm ⟨hbits, hrate, hindex, rfl⟩
  | soundFile f =>
    exact h.update hp h.position.2 h.input (isLegacy_of_soundFile hm).symm ((mediumOk_iff_soundOk hm).1 h.medium)

/-! #### The sample tick -/

theorem deleteCueAt_ok (h : TapeOk t) (p : Nat) : TapeOk (deleteCueAt p t) := by
  unfold deleteCueAt
  split
  · exact h.setCues (h.cues.filter _) true
  · exact h

theorem deleteCueAt_eq (p : Nat) (t : Tape) :
    ∃ cs dirty, deleteCueAt p t = { t with cuePoints := cs, cueDirty := dirty } := by
  unfold deleteCueAt
  split
  · exact ⟨_, _, rfl⟩
  · exact ⟨t.cuePoints, t.cueDirty, rfl⟩

/-- A sample written leaves a legal tape that differs in the medium only. -/
theorem writeSample_ok (h : TapeOk t) {v : Byte} (hv : v.toNat < 2 ^ t.requestedBitsPerSample) (i : Nat) (s : State) :
    TapeOk (writeSample t i v s).2.1 ∧ (writeSample t i v s).2.1.isLegacy = t.isLegacy
      ∧ ∃ m, (writeSample t i v s).2.1 = { t with medium := m } := by
  unfold writeSample
  cases hm : t.medium with
  | native n =>
    have hok := writeNative_ok ((mediumOk_iff_nativeOk hm).1 h.medium) hv i s
    have hl := isLegacy_of_native hm
    exact ⟨h.setMedium t.cueDirty hl.symm hok, hl.symm, _, rfl⟩
  | legacyTap l => exact ⟨h, rfl, t.medium, rfl⟩
  | soundFile f =>
    have hok := writeSound_ok ((mediumOk_iff_soundOk hm).1 h.medium) t i v s
    have hl := isLegacy_of_soundFile hm
    exact ⟨h.setMedium t.cueDirty hl.symm hok, hl.symm, _, rfl⟩

/-- Off LegacyTap the tape one sample on, longer where the sample is past its end, and the input signal 0. -/
theorem TapeOk.recorded (h : TapeOk t) (hl : t.isLegacy = false) (hlimit : t.tapePosition < tapeLimit) :
    TapeOk { t with
      tapePosition := t.tapePosition + 1, tapeLength := max t.tapeLength (t.tapePosition + 1), inputState := 0 } := by
  obtain ⟨-, hlen⟩ := h.position
  have hlen' : max t.tapeLength (t.tapePosition + 1) < 2 ^ 32 := by
    unfold tapeLimit at hlimit
    omega
  exact h.update (Nat.le_max_right _ _) hlen' (zero_lt_two_pow _) rfl (h.medium.of_not_legacy hl _)

theorem endTick_tape (failed : Bool) (t : Tape) (s : State) : (endTick failed t s).tape = some t := by
  cases failed <;> rfl

theorem recordTick_ok (h : TapeOk t) (hl : t.isLegacy = false) (hlimit : t.tapePosition < tapeLimit) (s : State) :
    ∃ u, (recordTick t s).tape = some u ∧ TapeOk u := by
  refine ⟨_, endTick_tape _ _ _, ?_⟩
  obtain ⟨cs, dirty, hcut⟩ := deleteCueAt_eq t.tapePosition t
  have hok := deleteCueAt_ok h t.tapePosition
  rw [hcut] at hok ⊢
  obtain ⟨hw, hlw, m, hm⟩ := writeSample_ok hok h.output t.tapePosition s
  rw [hm] at hw hlw ⊢
  exact hw.recorded (hlw.trans hl) hlimit

theorem playTick_ok (h : TapeOk t) (hpos : t.tapePosition < t.tapeLength) (s : State) :
    ∃ u, (playTick t s).tape = some u ∧ TapeOk u := by
  refine ⟨_, endTick_tape _ _ _, ?_⟩
  unfold readSample
  cases hm : t.medium with
  | native n =>
    obtain ⟨hv, hok⟩ := readNative_ok ((mediumOk_iff_nativeOk hm).1 h.medium) t.tapePosition s
    exact h.update hpos h.position.2 hv (isLegacy_of_native hm).symm hok
  | legacyTap l =>
    obtain ⟨hv, hok⟩ := readLegacy_ok ((mediumOk_iff_legacyOk hm).1 h.medium)
    exact h.update hpos h.position.2 hv (isLegacy_of_legacyTap hm).symm hok
  | soundFile f =>
    obtain ⟨hv, hok⟩ := readSound_ok ((mediumOk_iff_soundOk hm).1 h.medium) t t.tapePosition s
    exact h.update hpos h.position.2 hv (isLegacy_of_soundFile hm).symm hok

theorem tick_ok (h : TapeOk t) (s : State) : ∃ u, (tick t s).tape = some u ∧ TapeOk u := by
  have hstill := h.setInput (v := 0) (zero_lt_two_pow _)
  unfold tick
  split
  · next hrun =>
    obtain ⟨-, hrec⟩ := Bool.and_eq_true_iff.1 hrun
    obtain ⟨-, -, hl⟩ := h.record hrec
    split
    · exact ⟨_, rfl, hstill⟩
    · next hlimit => exact recordTick_ok h hl (Nat.lt_of_not_le hlimit) s
  split
  · next hrun =>
    obtain ⟨-, hpos⟩ := Bool.and_eq_true_iff.1 hrun
    exact playTick_ok h (of_decide_eq_true hpos) s
  · exact ⟨_, rfl, hstill⟩

/-! #### Open (44_tape.md R400, R401, R441, R450) -/

/-- A tape as its format opens it, on the common fields "at open". -/
theorem tapeOk_opening {a : OpenArgs} (hreq : validBits a.requestedBits = true) {rate bits len : Nat} {cs : List Nat}
    {m : Medium} (hrate : 0 < rate) (hbits : validBits bits = true) (hlen : len < 2 ^ 32) (hcs : CuesOk cs)
    (hm : MediumOk { openingTape a with fileBitsPerSample := bits, sampleRate := rate, medium := m }) :
    TapeOk { openingTape a with
      fileBitsPerSample := bits, sampleRate := rate, tapeLength := len, cuePoints := cs, medium := m } := by
  obtain ⟨hasc, hcap, hlt⟩ := hcs
  exact ⟨hasc, hcap, hlt, Nat.zero_le _, hlen, fun h => absurd h Bool.false_ne_true, hrate, hbits, hreq,
    zero_lt_two_pow _, zero_lt_two_pow _, hm⟩

theorem parseNativeHeader_ok {h : List Byte} {bits rate : Nat} {cs : List Nat}
    (hp : parseNativeHeader h = some (bits, rate, cs)) : validBits bits = true ∧ 0 < rate ∧ CuesOk cs := by
  unfold parseNativeHeader at hp
  dsimp only at hp
  split at hp
  · next hok =>
    obtain ⟨-, hbits, hrate⟩ := hok
    cases hp
    exact ⟨hbits, Nat.pos_of_ne_zero hrate, readCueSlots_ok _⟩
  · cases hp

theorem openNative_ok {a : OpenArgs} (hreq : validBits a.requestedBits = true) {u : State}
    (h : openNative a (openingTape a) s = (.ok t, u)) : TapeOk t := by
  unfold openNative at h
  split at h
  · split at h
    · cases h
    · next hok =>
      obtain ⟨hrate, hbits⟩ := not_or.1 hok
      dsimp only at h
      split at h
      · cases h
      · cases h
        exact tapeOk_opening hreq (Nat.pos_of_ne_zero hrate) (by simpa using hbits) (by decide) cuesOk_nil (nativeOk_empty _)
  split at h
  · cases h
  · cases h
  split at h
  · cases h
  · next hp =>
    cases h
    obtain ⟨hbits, hrate, hcs⟩ := parseNativeHeader_ok hp
    exact tapeOk_opening hreq hrate hbits (low32_lt _) hcs (nativeOk_empty _)

theorem openLegacyTap_ok {a : OpenArgs} (hreq : validBits a.requestedBits = true) {u : State}
    (h : openLegacyTap a (openingTape a) s = (.ok t, u)) : TapeOk t := by
  unfold openLegacyTap at h
  split at h
  · cases h
  split at h
  · cases h
  · cases h
  split at h
  · cases h
  split at h
  · cases h
    exact tapeOk_opening hreq (by decide) rfl (low32_lt _) cuesOk_nil ⟨rfl, rfl, seekIndexOf_length_le _ _, rfl⟩
  · cases h

/-- A readable container has a rate (44_tape.md R450). -/
theorem soundOf_rate_pos {st : Store} {c : Sound} (h : soundOf st = some c) : 0 < c.sampleRate := by
  unfold soundOf at h
  dsimp only at h
  split at h
  · split at h
    · next hvalid =>
      cases h
      simp only [validSound, Bool.and_eq_true, decide_eq_true_eq] at hvalid
      obtain ⟨⟨-, hrate⟩, -⟩ := hvalid
      exact hrate
    · cases h
  · cases h

theorem soundTape_ok {a : OpenArgs} (hreq : validBits a.requestedBits = true) {c : Sound} (hrate : 0 < c.sampleRate)
    (hchannel : a.channel < c.nChannels) : TapeOk (soundTape a (openingTape a) c) :=
  tapeOk_opening hreq hrate rfl (low32_lt _) cuesOk_nil
    ⟨hchannel, fun h => absurd h Bool.false_ne_true, fun h => absurd h Bool.false_ne_true⟩

theorem openSoundFile_ok {a : OpenArgs} (hreq : validBits a.requestedBits = true) {u : State}
    (h : openSoundFile a (openingTape a) s = (.ok t, u)) : TapeOk t := by
  unfold openSoundFile at h
  split at h
  · split at h
    · cases h
    · next hok =>
      obtain ⟨hrate, hchannel⟩ := not_or.1 hok
      dsimp only at h
      split at h
      · cases h
      · cases h
        exact soundTape_ok hreq (Nat.pos_of_ne_zero hrate) (Nat.lt_of_not_le hchannel)
  split at h
  · cases h
  split at h
  · cases h
  · next hc =>
    split at h
    · cases h
    · next hchannel =>
      cases h
      exact soundTape_ok hreq (soundOf_rate_pos hc) (Nat.lt_of_not_le hchannel)

theorem openFormat_ok {a : OpenArgs} (hreq : validBits a.requestedBits = true) {u : State}
    (h : openFormat a s = (.ok t, u)) : TapeOk t := by
  unfold openFormat at h
  split at h
  · exact openNative_ok hreq h
  · exact openLegacyTap_ok hreq h
  · exact openSoundFile_ok hreq h

end

/-! #### The deck -/

theorem deckOk_of_some {s : State} {t : Tape} (hs : s.tape = some t) (h : TapeOk t) : DeckOk s := by
  intro u hu
  obtain rfl := Option.some.inj (hs.symm.trans hu)
  exact h

theorem deckOk_of_none {s : State} (hs : s.tape = none) : DeckOk s := by
  intro u hu
  rw [hs] at hu
  cases hu

theorem DeckOk.of_tape_eq {s u : State} (h : DeckOk s) (hu : u.tape = s.tape) : DeckOk u := by
  intro t ht
  exact h t (hu.symm.trans ht)

theorem flushInto_tape (t : Tape) (s : State) : (flushInto t s).tape = some (flushMedium t s).2.1 := by
  unfold flushInto
  dsimp only
  split <;> rfl

theorem closeTape_tape (s : State) : (closeTape s).tape = none := by
  unfold closeTape
  cases hs : s.tape with
  | none => exact hs
  | some t => rfl

theorem openTape_deckOk (a : OpenArgs) (s : State) : DeckOk (openTape a s) := by
  have hclosed := closeTape_tape s
  have hkeep := openFormat_keepsBlocks a (closeTape s)
  unfold openTape
  dsimp only
  split
  · next hreq =>
    split
    · next t u hopen => exact deckOk_of_some rfl (openFormat_ok hreq hopen)
    · next k u hopen =>
      rw [hopen] at hkeep
      exact deckOk_of_none (hkeep.tape.trans hclosed)
  · exact deckOk_of_none hclosed

/-- From `s` to `t` the deck changes at most, and its invariants are kept. -/
def TapeChanges (s t : State) : Prop := KeepsOthers .tape s t ∧ (DeckOk s → DeckOk t)

theorem KeepsBlocks.tapeChanges {s t : State} (h : KeepsBlocks s t) : TapeChanges s t :=
  ⟨h.keepsOthers .tape, fun hs => hs.of_tape_eq h.tape⟩

theorem returns_tapeChanges (s : State) (r : Result) : TapeChanges s (s.returns r) :=
  (keepsBlocks_returns s r).tapeChanges

theorem withTape_tapeChanges {s : State} {t u : Tape} (hs : s.tape = some t) (r : Result) (h : TapeOk t → TapeOk u) :
    TapeChanges s (s.withTape u r) :=
  ⟨keepsOthers_withTape s u r, fun hok => deckOk_of_some rfl (h (hok t hs))⟩

theorem flushInto_tapeChanges {s : State} {t u : Tape} (hs : s.tape = some t) (h : TapeOk t → TapeOk u) :
    TapeChanges s (flushInto u s) :=
  ⟨flushInto_keepsOthers u s, fun hok => deckOk_of_some (flushInto_tape u s) (flushMedium_ok (h (hok t hs)) s)⟩

theorem tick_tapeChanges {s : State} {t : Tape} (hs : s.tape = some t) : TapeChanges s (tick t s) := by
  refine ⟨tick_keepsOthers t s, fun hok => ?_⟩
  obtain ⟨u, hu, hut⟩ := tick_ok (hok t hs) s
  exact deckOk_of_some hu hut

theorem openTape_tapeChanges (a : OpenArgs) (s : State) : TapeChanges s (openTape a s) :=
  ⟨openTape_keepsOthers a s, fun _ => openTape_deckOk a s⟩

theorem closeTape_tapeChanges (s : State) : TapeChanges s ((closeTape s).returns .none) :=
  ⟨(closeTape_keepsOthers s).returns _, fun _ => deckOk_of_none (closeTape_tape s)⟩

/-- The operation on the open tape changes the deck legally; with none open nothing changes (44_tape.md R402). -/
theorem onTape_tapeChanges {f : Tape → State → State} {s : State}
    (hf : ∀ t, s.tape = some t → TapeChanges s (f t s)) : ∃ u, onTape f s = .next u ∧ TapeChanges s u := by
  cases hs : s.tape with
  | none => exact ⟨_, onTape_none hs, returns_tapeChanges s _⟩
  | some t => exact ⟨_, onTape_some hs, hf t hs⟩

/-! #### Transport, positioning and cue points -/

theorem execPlay_tapeChanges (s : State) : ∃ u, execPlay s = .next u ∧ TapeChanges s u :=
  onTape_tapeChanges fun _ hs =>
    withTape_tapeChanges hs _ fun h => h.setTransport fun hr => absurd hr Bool.false_ne_true

theorem execRecord_tapeChanges (s : State) : ∃ u, execRecord s = .next u ∧ TapeChanges s u := by
  refine onTape_tapeChanges fun t hs => ?_
  split
  · exact returns_tapeChanges s _
  · exact returns_tapeChanges s _
  · next hmode hmedium =>
    refine withTape_tapeChanges hs _ fun h => h.setTransport fun _ => ⟨rfl, hmode, ?_⟩
    cases hm : t.medium with
    | native n => exact isLegacy_of_native hm
    | legacyTap l => exact absurd hm (hmedium l)
    | soundFile f => exact isLegacy_of_soundFile hm

theorem execStop_tapeChanges (s : State) : ∃ u, execStop s = .next u ∧ TapeChanges s u :=
  onTape_tapeChanges fun _ hs =>
    flushInto_tapeChanges hs fun h => h.setTransport fun hr => absurd hr Bool.false_ne_true

theorem execSetIsMotorOn_tapeChanges (b : Bool) (s : State) :
    ∃ u, execSetIsMotorOn b s = .next u ∧ TapeChanges s u := by
  refine onTape_tapeChanges fun t hs => ?_
  split
  · exact flushInto_tapeChanges hs fun h => h.setTransport h.record
  · exact withTape_tapeChanges hs _ fun h => h.setTransport h.record

theorem execRunOneSample_tapeChanges (s : State) : ∃ u, execRunOneSample s = .next u ∧ TapeChanges s u :=
  onTape_tapeChanges fun _ hs => tick_tapeChanges hs

theorem execGetInputSignal_tapeChanges (s : State) : ∃ u, execGetInputSignal s = .next u ∧ TapeChanges s u := by
  unfold execGetInputSignal
  split <;> exact ⟨_, rfl, returns_tapeChanges s _⟩

theorem execSetOutputSignal_tapeChanges (v : Byte) (s : State) :
    ∃ u, execSetOutputSignal v s = .next u ∧ TapeChanges s u :=
  onTape_tapeChanges fun _ hs => withTape_tapeChanges hs _ fun h => h.setOutput (lowBits_lt _ _)

theorem clampPosition_le (p : Int) (len : Nat) : clampPosition p len ≤ len := Nat.min_le_right _ _

theorem execTapeSeek_tapeChanges (secs : Rat) (s : State) : ∃ u, execTapeSeek secs s = .next u ∧ TapeChanges s u :=
  onTape_tapeChanges fun _ hs => flushInto_tapeChanges hs fun h => moveTo_ok h (clampPosition_le _ _)

theorem execSeekToCuePoint_tapeChanges (forward : Bool) (secs : Rat) (s : State) :
    ∃ u, execSeekToCuePoint forward secs s = .next u ∧ TapeChanges s u :=
  onTape_tapeChanges fun _ hs => flushInto_tapeChanges hs fun h => moveTo_ok h (clampPosition_le _ _)

theorem execAddCuePoint_tapeChanges (s : State) : ∃ u, execAddCuePoint s = .next u ∧ TapeChanges s u := by
  unfold execAddCuePoint
  split
  · exact ⟨_, rfl, returns_tapeChanges s _⟩
  next t hs =>
  split
  · exact ⟨_, rfl, returns_tapeChanges s _⟩
  next hnew =>
  split
  · exact ⟨_, rfl, returns_tapeChanges s _⟩
  next hroom =>
  obtain ⟨hcap, hsentinel⟩ := not_or.1 hroom
  refine ⟨_, rfl, withTape_tapeChanges hs _ fun h => h.setCues ?_ true⟩
  obtain ⟨-, hlen, -⟩ := h.cues
  obtain ⟨hpos, hlen32⟩ := h.position
  refine h.cues.insertCue hnew (Nat.lt_of_le_of_ne hlen hcap) ?_
  unfold cueSentinel at hsentinel ⊢
  omega

theorem execDeleteNearestCuePoint_tapeChanges (s : State) :
    ∃ u, execDeleteNearestCuePoint s = .next u ∧ TapeChanges s u := by
  unfold execDeleteNearestCuePoint
  split
  · exact ⟨_, rfl, returns_tapeChanges s _⟩
  next t hs =>
  split
  · exact ⟨_, rfl, returns_tapeChanges s _⟩
  · exact ⟨_, rfl, withTape_tapeChanges hs _ fun h => h.setCues (h.cues.filter _) true⟩

theorem execDeleteAllCuePoints_tapeChanges (s : State) :
    ∃ u, execDeleteAllCuePoints s = .next u ∧ TapeChanges s u :=
  onTape_tapeChanges fun _ hs => withTape_tapeChanges hs _ fun h => h.setCues cuesOk_nil _

theorem execGetTapeInfo_tapeChanges (s : State) : ∃ u, execGetTapeInfo s = .next u ∧ TapeChanges s u := by
  unfold execGetTapeInfo
  split <;> exact ⟨_, rfl, returns_tapeChanges s _⟩

end Sys2Proof.Machine

/-! ### What every instruction does to the three sub-blocks

One line for each constructor: the instruction completes, and what it does to its sub-block is what its operation does. -/

namespace Sys2Proof.Machine

/-- What an operation of sub-block `b` may do from `s` to `t`: on the FDC a run of its changes, on the deck what keeps the
tape invariants, and elsewhere nothing but stores and draws. -/
def Effect (b : SubBlock) (s t : State) : Prop :=
  match b with
  | .tbm => KeepsOthers .tbm s t
  | .fdc => FdcChanges s t
  | .tape => TapeChanges s t

theorem Effect.keepsOthers {b : SubBlock} {s t : State} (h : Effect b s t) : KeepsOthers b s t := by
  cases b with
  | tbm => exact h
  | fdc =>
    obtain ⟨hkeep, -⟩ := h
    exact hkeep
  | tape =>
    obtain ⟨hkeep, -⟩ := h
    exact hkeep

theorem returns_keepsOthers (b : SubBlock) (s : State) (r : Result) : KeepsOthers b s (s.returns r) :=
  (keepsBlocks_returns s r).keepsOthers b

theorem returns_fdcChanges (s : State) (r : Result) : FdcChanges s (s.returns r) :=
  (keepsBlocks_returns s r).fdcChanges

theorem setTbm_returns_keepsOthers (s : State) (x : Tbm) (r : Result) :
    KeepsOthers .tbm s ((s.setTbm x).returns r) :=
  (keepsOthers_setTbm s x).returns r

/-- A command row: its byte accepted, and no result. -/
theorem acceptCommand_returns_changes {c : Byte} {body : State → State} (hbody : BodyChanges c body) (s : State) :
    FdcChanges s ((acceptCommand c body s).returns .none) :=
  (acceptCommand_changes hbody s).returns _

theorem execGcrWriteByte_keepsOthers (i : Nat) (v : Byte) (s : State) :
    ∃ t, execGcrWriteByte i v s = .next t ∧ KeepsOthers .tbm s t := by
  unfold execGcrWriteByte
  dsimp only
  split
  · exact ⟨_, rfl, returns_keepsOthers _ s _⟩
  · exact ⟨_, rfl, setTbm_returns_keepsOthers s _ _⟩

theorem execSetSectorErrorCode_keepsOthers (sector : Nat) (code : Byte) (s : State) :
    ∃ t, execSetSectorErrorCode sector code s = .next t ∧ KeepsOthers .tbm s t := by
  unfold execSetSectorErrorCode
  split
  · exact ⟨_, rfl, setTbm_returns_keepsOthers s _ _⟩
  · exact ⟨_, rfl, returns_keepsOthers _ s _⟩

/-- Every instruction completes, with the effect of its sub-block. -/
theorem exec_effect (i : Instr) (s : State) : ∃ t, exec i s = .next t ∧ Effect (subBlock i) s t := by
  cases i with
  | restore h v r => exact ⟨_, rfl, acceptCommand_returns_changes (fun _ hb _ => cmdRestore_changes v hb) s⟩
  | seek h v r => exact ⟨_, rfl, acceptCommand_returns_changes (fun _ hb _ => cmdSeek_changes v hb) s⟩
  | step u h v r => exact ⟨_, rfl, acceptCommand_returns_changes (fun _ hb _ => cmdStep_changes u v hb) s⟩
  | stepIn u h v r => exact ⟨_, rfl, acceptCommand_returns_changes (fun _ hb _ => cmdStepIn_changes u v hb) s⟩
  | stepOut u h v r => exact ⟨_, rfl, acceptCommand_returns_changes (fun _ hb _ => cmdStepOut_changes u v hb) s⟩
  | rdsec m hs e pc b0 =>
    exact ⟨_, rfl, acceptCommand_returns_changes
      (fun _ hb hc => cmdReadSector_changes hs pc hb (hc ▸ transferKind_rdsecByte m hs e pc b0)) s⟩
  | wrsec m hs e pc a0 =>
    exact ⟨_, rfl, acceptCommand_returns_changes
      (fun _ hb hc => cmdWriteSector_changes hs pc hb (hc ▸ transferKind_wrsecByte m hs e pc a0)) s⟩
  | rdaddr hs e b1 b0 =>
    exact ⟨_, rfl, acceptCommand_returns_changes
      (fun _ hb hc => cmdReadAddress_changes hb (hc ▸ transferKind_rdaddrByte hs e b1 b0)) s⟩
  | forceint i3 i2 i1 i0 => exact ⟨_, rfl, (acceptForce_changes _ i3 i2 s).returns _⟩
  | rdtrk hs e b1 b0 => exact ⟨_, rfl, acceptCommand_returns_changes (fun _ hb _ => cmdReadTrack_changes hb) s⟩
  | wrtrk hs e p b0 => exact ⟨_, rfl, acceptCommand_returns_changes (fun _ hb _ => cmdWriteTrack_changes hb) s⟩
  | st => exact ⟨_, rfl, readStatus_changes s⟩
  | cmd v => exact ⟨_, rfl, (writeCommand_changes v s).returns _⟩
  | rtr => exact ⟨_, rfl, returns_fdcChanges s _⟩
  | wtr v => exact ⟨_, rfl, writeTrackReg_changes v s⟩
  | rsr => exact ⟨_, rfl, returns_fdcChanges s _⟩
  | wsr v => exact ⟨_, rfl, writeSectorReg_changes v s⟩
  | rdr => exact ⟨_, rfl, readData_changes s⟩
  | wdr v => exact ⟨_, rfl, writeData_changes v s⟩
  | gcrEncodeFourBytes b0 b1 b2 b3 => exact ⟨_, rfl, returns_keepsOthers _ s _⟩
  | gcrDecodeFourBytes g0 g1 g2 g3 g4 => exact ⟨_, rfl, returns_keepsOthers _ s _⟩
  | gcrEncodeTrack t n m => exact ⟨_, rfl, setTbm_returns_keepsOthers s _ _⟩
  | gcrDecodeTrack t n m => exact ⟨_, rfl, setTbm_returns_keepsOthers s _ _⟩
  | setImageFile file ro =>
    exact ⟨_, rfl, (setImageFile_keepsOthers file ro s).trans ((keepsBlocks_finish _ _).keepsOthers _)⟩
  | readTrack t => exact ⟨_, rfl, (readTrack_keepsOthers t s).returns _⟩
  | flushTrack t => exact ⟨_, rfl, (flushTrack_keepsOthers t s).trans ((keepsBlocks_finish _ _).keepsOthers _)⟩
  | setCurrentTrack t => exact ⟨_, rfl, (setCurrentTrack_keepsOthers t s).returns _⟩
  | gcrReadByte n => exact ⟨_, rfl, returns_keepsOthers _ s _⟩
  | gcrWriteByte n v => exact execGcrWriteByte_keepsOthers n v s
  | getTrackInfo => exact ⟨_, rfl, returns_keepsOthers _ s _⟩
  | setSectorErrorCode n code => exact execSetSectorErrorCode_keepsOthers n code s
  | getSectorErrorCode n => exact ⟨_, rfl, returns_keepsOthers _ s _⟩
  | closeD64 => exact ⟨_, rfl, ((flushTrack_keepsOthers (-1) s).setTbm _).returns _⟩
  | writeCommandRegister v => exact ⟨_, rfl, (writeCommand_changes v s).returns _⟩
  | readStatusRegister => exact ⟨_, rfl, readStatus_changes s⟩
  | writeTrackRegister v => exact ⟨_, rfl, writeTrackReg_changes v s⟩
  | readTrackRegister => exact ⟨_, rfl, returns_fdcChanges s _⟩
  | writeSectorRegister v => exact ⟨_, rfl, writeSectorReg_changes v s⟩
  | readSectorRegister => exact ⟨_, rfl, returns_fdcChanges s _⟩
  | writeDataRegister v => exact ⟨_, rfl, writeData_changes v s⟩
  | readDataRegister => exact ⟨_, rfl, readData_changes s⟩
  | peekRegister a => exact ⟨_, rfl, returns_fdcChanges s _⟩
  | getHeadPosition => exact ⟨_, rfl, returns_fdcChanges s _⟩
  | getInterruptRequest => exact ⟨_, rfl, returns_fdcChanges s _⟩
  | getDataRequest => exact ⟨_, rfl, returns_fdcChanges s _⟩
  | setDiskImageFile file ro t h n =>
    exact ⟨_, rfl, (setDiskImageFile_changes file ro t h n s).trans (keepsBlocks_finish _ _).fdcChanges⟩
  | setSide h => exact ⟨_, rfl, (setSide_changes _ s).returns _⟩
  | resetFdc => exact ⟨_, rfl, (resetFdc_changes s).returns _⟩
  | closeFdc =>
    obtain ⟨hdetach, -⟩ := detach_changes s
    exact ⟨_, rfl, hdetach.returns _⟩
  | openTape a => exact ⟨_, rfl, openTape_tapeChanges a s⟩
  | play => exact execPlay_tapeChanges s
  | record => exact execRecord_tapeChanges s
  | stop => exact execStop_tapeChanges s
  | setIsMotorOn b => exact execSetIsMotorOn_tapeChanges b s
  | runOneSample => exact execRunOneSample_tapeChanges s
  | getInputSignal => exact execGetInputSignal_tapeChanges s
  | setOutputSignal v => exact execSetOutputSignal_tapeChanges v s
  | tapeSeek secs => exact execTapeSeek_tapeChanges secs s
  | seekToCuePoint forward secs => exact execSeekToCuePoint_tapeChanges forward secs s
  | addCuePoint => exact execAddCuePoint_tapeChanges s
  | deleteNearestCuePoint => exact execDeleteNearestCuePoint_tapeChanges s
  | deleteAllCuePoints => exact execDeleteAllCuePoints_tapeChanges s
  | getTapeInfo => exact execGetTapeInfo_tapeChanges s
  | closeTape => exact ⟨_, rfl, closeTape_tapeChanges s⟩

/-- A step that ends in a next state has the effect of one sub-block, from the state with its call taken. -/
theorem step_effect {s t : State} (h : step s = .next t) :
    ∃ b rest, Effect b { s with calls := rest } t := by
  cases hcalls : s.calls with
  | nil =>
    rw [step_of_calls_nil hcalls] at h
    cases h
  | cons c rest =>
    cases hdec : decode c with
    | error e =>
      rw [step_of_decode_error hcalls hdec] at h
      cases h
    | ok i =>
      obtain ⟨u, hexec, heffect⟩ := exec_effect i { s with calls := rest }
      rw [step_of_decode_ok hcalls hdec, hexec] at h
      cases h
      exact ⟨subBlock i, rest, heffect⟩

/-! ### The invariants of 10_state.md -/

/-- Whatever the sub-block, the FDC changes by a run of its changes, none where the FDC is not the sub-block. -/
theorem Effect.fdcRun {b : SubBlock} {s t : State} (h : Effect b s t) :
    t.params = s.params ∧ Relation.ReflTransGen (FdcChange s.params) s.fdc t.fdc := by
  have hkeep := h.keepsOthers
  refine ⟨hkeep.params, ?_⟩
  by_cases hb : b = .fdc
  · subst hb
    obtain ⟨-, hrun⟩ := h
    exact hrun
  · rw [hkeep.fdc hb]

/-- Whatever the sub-block, the tape invariants are kept. -/
theorem Effect.keeps_deckOk {b : SubBlock} {s t : State} (h : Effect b s t) (hs : DeckOk s) : DeckOk t := by
  by_cases hb : b = .tape
  · subst hb
    obtain ⟨-, hdeck⟩ := h
    exact hdeck hs
  · exact hs.of_tape_eq (h.keepsOthers.tape hb)

/-- Settles O41: each of the changes a step makes to the FDC keeps the transfer invariant. -/
theorem fdcTransferInvariant : Obligations.FdcTransferInvariant := by
  intro s t hs hstep
  obtain ⟨b, rest, heffect⟩ := step_effect hstep
  obtain ⟨-, hrun⟩ := heffect.fdcRun
  exact fdcRun_keeps_transferOk hrun hs

/-- Settles O42: each of the changes a step makes to the FDC keeps the geometry, the head's bound and the image under a
write transfer; the size table matters to an attach only. -/
theorem fdcGeometryInvariant : Obligations.FdcGeometryInvariant := by
  intro s t hrows hs hstep
  obtain ⟨b, rest, heffect⟩ := step_effect hstep
  obtain ⟨hparams, hrun⟩ := heffect.fdcRun
  rw [hparams]
  exact fdcRun_keeps_geometry hrun hrows hs

/-- Settles O59: the operations of the deck keep the tape invariants, all others the deck. -/
theorem tapeInvariant : Obligations.TapeInvariant := by
  intro s t hs hstep
  obtain ⟨b, rest, heffect⟩ := step_effect hstep
  exact heffect.keeps_deckOk hs

end Sys2Proof.Machine

/-! ### What leaves the host's files alone

The operations that read a store or none: the loads, and the commands of the FDC once no transfer is running
(20_memory.md R100). -/

namespace Sys2Proof.Machine

variable {s t : State}

/-! #### Store reads -/

theorem memRead_stores (id off n : Nat) (s : State) : (memRead id off n s).2.stores = s.stores := by
  obtain ⟨h, -⟩ | ⟨-, -, h⟩ | ⟨-, -, h⟩ := memRead_cases id off n s <;> rw [h]
  · exact State.ioNext_stores s
  · exact State.ioNext_stores s

theorem stores_of_memRead_eq {id off n : Nat} {r : ReadOutcome} (h : memRead id off n s = (r, t)) :
    t.stores = s.stores := by
  have hread := memRead_stores id off n s
  rwa [h] at hread

/-- A read that gives bytes gives as many as it was asked for. -/
theorem memRead_ok_length {id off n : Nat} {bs : List Byte} (h : memRead id off n s = (.ok bs, t)) : bs.length = n := by
  obtain ⟨hr, -⟩ | ⟨-, -, hr⟩ | ⟨-, -, hr⟩ := memRead_cases id off n s <;> rw [hr] at h
  · cases h
  · cases h
  · cases h
    exact Memory.readBytes_length _ _ _

theorem finish_stores {α : Type} (f : α → Result) (out : Except IoError α × State) :
    (finish f out).stores = out.2.stores := by
  unfold finish
  split <;> rfl

theorem loadTrack_stores (id track : Nat) (s : State) : (loadTrack id track s).2.stores = s.stores := by
  unfold loadTrack
  split
  · next data s1 hdata =>
    have h1 := stores_of_memRead_eq hdata
    split
    · split
      · next hcodes => exact (stores_of_memRead_eq hcodes).trans h1
      · next hcodes => exact (stores_of_memRead_eq hcodes).trans h1
    · exact h1
  · next hdata => exact stores_of_memRead_eq hdata

theorem readTrack_stores (trackNum : Int) (s : State) : (readTrack trackNum s).2.stores = s.stores := by
  unfold readTrack
  dsimp only
  split
  · rfl
  split
  · exact loadTrack_stores _ _ _
  · rfl

/-! #### The commands of the FDC -/

theorem typeIEnd_stores (v : Bool) (s : State) : (typeIEnd v s).stores = s.stores := State.indexNext_stores s

theorem selectSide_stores (hs pc : Bool) (s : State) : (selectSide hs pc s).stores = s.stores := by
  unfold selectSide
  split <;> rfl

theorem cmdReadSector_stores (hs pc : Bool) (s : State) : (cmdReadSector hs pc s).stores = s.stores := by
  have hsel := selectSide_stores hs pc s
  unfold cmdReadSector
  dsimp only
  generalize selectSide hs pc s = s1 at hsel
  split
  · exact hsel
  split
  · split
    · next hread => exact (stores_of_memRead_eq hread).trans hsel
    · next hread => exact (stores_of_memRead_eq hread).trans hsel
  · exact hsel

theorem cmdWriteSector_stores (hs pc : Bool) (s : State) : (cmdWriteSector hs pc s).stores = s.stores := by
  have hsel := selectSide_stores hs pc s
  unfold cmdWriteSector
  dsimp only
  split
  · exact hsel
  split <;> exact hsel

theorem cmdReadAddress_stores (s : State) : (cmdReadAddress s).stores = s.stores := by
  unfold cmdReadAddress
  split <;> rfl

theorem partialWrite_of_not_busy {f : Fdc} (h : f.busy = false) : partialWrite f = false := by
  unfold Fdc.busy at h
  rw [partialWrite, h, Bool.false_and, Bool.false_and]

/-- FORCE INTERRUPT reaches a store only through a write transfer with a byte in it (43_fdc_commands.md R381). -/
theorem forceInterrupt_stores (i3 i2 : Bool) (hp : partialWrite s.fdc = false) :
    (forceInterrupt i3 i2 s).stores = s.stores := by
  have hflags : partialWrite { s.fdc with interruptRequestFlag := false, forceIntPending := false } = false := hp
  unfold forceInterrupt
  dsimp only
  rw [State.setFdc_fdc, hflags]
  rfl

theorem execute_stores (c : Byte) (hb : s.fdc.busy = false) : (execute c s).stores = s.stores := by
  unfold execute
  split
  · exact typeIEnd_stores _ _
  split
  · exact typeIEnd_stores _ _
  split
  · exact typeIEnd_stores _ _
  split
  · exact typeIEnd_stores _ _
  split
  · exact typeIEnd_stores _ _
  split
  · exact cmdReadSector_stores _ _ s
  split
  · exact cmdWriteSector_stores _ _ s
  split
  · exact cmdReadAddress_stores s
  split
  · exact forceInterrupt_stores _ _ (partialWrite_of_not_busy hb)
  split <;> rfl

theorem nextSector_stores (hb : s.fdc.busy = false) : (nextSector s).stores = s.stores := by
  unfold nextSector
  split
  · exact execute_stores _ hb
  · rfl

/-- A byte read moves no store, the last of a sector included: the reissued command is not a running write transfer. -/
theorem readData_stores (s : State) : (readData s).stores = s.stores := by
  unfold readData
  dsimp only
  split
  · rw [State.returns_stores]
    split
    · next hend => exact nextSector_stores (Fdc.busy_false_iff.2 (Nat.le_of_eq hend.symm))
    · rfl
  split
  · rw [State.returns_stores]
    split <;> rfl
  · rfl

/-! #### The command write -/

/-- A command body that reaches no store once no transfer is running. -/
def BodyKeepsStores (body : State → State) : Prop :=
  ∀ u : State, u.fdc.busy = false → (body u).stores = u.stores

theorem acceptCommand_stores {c : Byte} {body : State → State} (hbody : BodyKeepsStores body)
    (hp : partialWrite s.fdc = false) : (acceptCommand c body s).stores = s.stores := by
  by_cases hpos : s.fdc.bufPos < fdcSector
  · cases hw : s.params.cmdWhileBusy with
    | fault =>
      rw [acceptCommand_fault hpos hw]
      rfl
    | abortAndExecute =>
      rw [acceptCommand_abort hpos hw]
      have hbusy : (loadCommand c (forceInterrupt false false s)).fdc.busy = false := forceInterrupt_busy false false s
      exact (hbody _ hbusy).trans (forceInterrupt_stores false false hp)
  · rw [acceptCommand_idle (Nat.le_of_not_lt hpos)]
    exact hbody _ (Fdc.busy_false_iff.2 (Nat.le_of_not_lt hpos))

theorem acceptForce_stores (c : Byte) (i3 i2 : Bool) (hp : partialWrite s.fdc = false) :
    (acceptForce c i3 i2 s).stores = s.stores :=
  forceInterrupt_stores (s := s.setFdc { s.fdc with busyHackPhase := true }) i3 i2 hp

theorem writeCommand_stores (c : Byte) (hp : partialWrite s.fdc = false) : (writeCommand c s).stores = s.stores := by
  unfold writeCommand
  split
  · exact acceptForce_stores _ _ _ hp
  · exact acceptCommand_stores (fun _ hb => execute_stores c hb) hp

/-! #### The other operations -/

theorem stores_of_onTape {f : Tape → State → State} (hf : ∀ x, (f x s).stores = s.stores)
    (h : onTape f s = .next t) : t.stores = s.stores := by
  cases hs : s.tape with
  | none =>
    rw [onTape_none hs] at h
    cases h
    rfl
  | some x =>
    rw [onTape_some hs] at h
    cases h
    exact hf x

theorem execPlay_stores (h : execPlay s = .next t) : t.stores = s.stores := stores_of_onTape (fun _ => rfl) h

theorem execSetOutputSignal_stores {v : Byte} (h : execSetOutputSignal v s = .next t) : t.stores = s.stores :=
  stores_of_onTape (fun _ => rfl) h

theorem execDeleteAllCuePoints_stores (h : execDeleteAllCuePoints s = .next t) : t.stores = s.stores :=
  stores_of_onTape (fun _ => rfl) h

theorem execRecord_stores (h : execRecord s = .next t) : t.stores = s.stores := by
  refine stores_of_onTape (fun x => ?_) h
  split <;> rfl

theorem execGetInputSignal_stores (h : execGetInputSignal s = .next t) : t.stores = s.stores := by
  unfold execGetInputSignal at h
  split at h <;> cases h <;> rfl

theorem execAddCuePoint_stores (h : execAddCuePoint s = .next t) : t.stores = s.stores := by
  unfold execAddCuePoint at h
  split at h
  · cases h; rfl
  split at h
  · cases h; rfl
  split at h <;> cases h <;> rfl

theorem execDeleteNearestCuePoint_stores (h : execDeleteNearestCuePoint s = .next t) : t.stores = s.stores := by
  unfold execDeleteNearestCuePoint at h
  split at h
  · cases h; rfl
  split at h <;> cases h <;> rfl

theorem execGetTapeInfo_stores (h : execGetTapeInfo s = .next t) : t.stores = s.stores := by
  unfold execGetTapeInfo at h
  split at h <;> cases h <;> rfl

theorem execGcrWriteByte_stores {i : Nat} {v : Byte} (h : execGcrWriteByte i v s = .next t) : t.stores = s.stores := by
  unfold execGcrWriteByte at h
  dsimp only at h
  split at h <;> cases h <;> rfl

theorem execSetSectorErrorCode_stores {n : Nat} {code : Byte} (h : execSetSectorErrorCode n code s = .next t) :
    t.stores = s.stores := by
  unfold execSetSectorErrorCode at h
  split at h <;> cases h <;> rfl

/-! #### The two clauses -/

/-- An operation that is none of the points of 20_memory.md R100: one line for each, the writers shut out by the
premise. -/
theorem stores_of_not_writer :
    ∀ {i : Instr}, mayWriteStore i = false → exec i s = .next t → t.stores = s.stores
  | .st, _, rfl => rfl
  | .rtr, _, rfl => rfl
  | .wtr _, _, rfl => rfl
  | .rsr, _, rfl => rfl
  | .wsr _, _, rfl => rfl
  | .rdr, _, rfl => readData_stores s
  | .gcrEncodeFourBytes _ _ _ _, _, rfl => rfl
  | .gcrDecodeFourBytes _ _ _ _ _, _, rfl => rfl
  | .gcrEncodeTrack _ _ _, _, rfl => rfl
  | .gcrDecodeTrack _ _ _, _, rfl => rfl
  | .readTrack n, _, rfl => readTrack_stores n s
  | .gcrReadByte _, _, rfl => rfl
  | .gcrWriteByte _ _, _, h => execGcrWriteByte_stores h
  | .getTrackInfo, _, rfl => rfl
  | .setSectorErrorCode _ _, _, h => execSetSectorErrorCode_stores h
  | .getSectorErrorCode _, _, rfl => rfl
  | .readStatusRegister, _, rfl => rfl
  | .writeTrackRegister _, _, rfl => rfl
  | .readTrackRegister, _, rfl => rfl
  | .writeSectorRegister _, _, rfl => rfl
  | .readSectorRegister, _, rfl => rfl
  | .readDataRegister, _, rfl => readData_stores s
  | .peekRegister _, _, rfl => rfl
  | .getHeadPosition, _, rfl => rfl
  | .getInterruptRequest, _, rfl => rfl
  | .getDataRequest, _, rfl => rfl
  | .setSide _, _, rfl => rfl
  | .resetFdc, _, rfl => rfl
  | .play, _, h => execPlay_stores h
  | .record, _, h => execRecord_stores h
  | .getInputSignal, _, h => execGetInputSignal_stores h
  | .setOutputSignal _, _, h => execSetOutputSignal_stores h
  | .addCuePoint, _, h => execAddCuePoint_stores h
  | .deleteNearestCuePoint, _, h => execDeleteNearestCuePoint_stores h
  | .deleteAllCuePoints, _, h => execDeleteAllCuePoints_stores h
  | .getTapeInfo, _, h => execGetTapeInfo_stores h

/-- A command write that ends no write transfer with a byte in it: whatever transfer it ends, the body then runs with
none. -/
theorem stores_of_commandWrite (hp : partialWrite s.fdc = false) :
    ∀ {i : Instr}, isCommandWrite i = true → exec i s = .next t → t.stores = s.stores
  | .restore _ _ _, _, rfl => acceptCommand_stores (fun _ _ => typeIEnd_stores _ _) hp
  | .seek _ _ _, _, rfl => acceptCommand_stores (fun _ _ => typeIEnd_stores _ _) hp
  | .step _ _ _ _, _, rfl => acceptCommand_stores (fun _ _ => typeIEnd_stores _ _) hp
  | .stepIn _ _ _ _, _, rfl => acceptCommand_stores (fun _ _ => typeIEnd_stores _ _) hp
  | .stepOut _ _ _ _, _, rfl => acceptCommand_stores (fun _ _ => typeIEnd_stores _ _) hp
  | .rdsec _ _ _ _ _, _, rfl => acceptCommand_stores (fun u _ => cmdReadSector_stores _ _ u) hp
  | .wrsec _ _ _ _ _, _, rfl => acceptCommand_stores (fun u _ => cmdWriteSector_stores _ _ u) hp
  | .rdaddr _ _ _ _, _, rfl => acceptCommand_stores (fun u _ => cmdReadAddress_stores u) hp
  | .forceint i3 i2 i1 i0, _, rfl => acceptForce_stores (forceintByte i3 i2 i1 i0) i3 i2 hp
  | .rdtrk _ _ _ _, _, rfl => acceptCommand_stores (fun _ _ => rfl) hp
  | .wrtrk _ _ _ _, _, rfl => acceptCommand_stores (fun _ _ => rfl) hp
  | .cmd c, _, rfl => writeCommand_stores c hp
  | .writeCommandRegister c, _, rfl => writeCommand_stores c hp

/-- Settles O8: no other operation touches a store, and a command write does so only through the transfer it ends. -/
theorem storesOnlyByWriters : Obligations.StoresOnlyByWriters := by
  rintro i s t hexec (hwriter | ⟨hcommand, hpartial⟩)
  · exact stores_of_not_writer hwriter hexec
  · exact stores_of_commandWrite hpartial hcommand hexec

end Sys2Proof.Machine

/-! ### The canonical form of every memory

The invariant of `MemoryOk`, with the track tables beside it, is carried through each operation: a write stays within
the size of what it writes to (20_memory.md R80, R81, R84). -/

namespace Sys2Proof.Machine

/-- The three buffers of TBM in canonical form within their sizes (10_state.md R26). -/
def Tbm.BuffersOk (t : Tbm) : Prop :=
  t.gcr.canonical gcrBufCap ∧ t.d64.canonical d64BufCap ∧ t.bad.canonical badTableLen

/-- Every memory in canonical form within its size, under track tables the spec admits. -/
structure MemoryInv (s : State) : Prop where
  tables : TrackTablesOk s.params
  stores : storesCanonical s.stores
  tbm : s.tbm.BuffersOk
  buf : s.fdc.buf.canonical fdcSector
  deck : ∀ t, s.tape = some t → t.medium.canonical

theorem memoryInv_iff {s : State} : MemoryInv s ↔ TrackTablesOk s.params ∧ MemoryOk s := by
  constructor
  · rintro ⟨htables, hstores, ⟨hgcr, hd64, hbad⟩, hbuf, hdeck⟩
    exact ⟨htables, hstores, hgcr, hd64, hbad, hbuf, hdeck⟩
  · rintro ⟨htables, hstores, hgcr, hd64, hbad, hbuf, hdeck⟩
    exact ⟨htables, hstores, ⟨hgcr, hd64, hbad⟩, hbuf, hdeck⟩

variable {s t : State}

/-! #### Memories -/

theorem Memory.canonical_nil (n : Nat) : Memory.canonical [] n :=
  ⟨⟨.nil, fun _ h => absurd h List.not_mem_nil⟩, fun _ h => absurd h List.not_mem_nil⟩

theorem Memory.ofBytes_canonical {bs : List Byte} {n : Nat} (h : bs.length ≤ n) : (Memory.ofBytes bs).canonical n :=
  ⟨Memory.ofBytes_wf bs, Memory.ofBytes_below h⟩

theorem Memory.canonical.writeBytes {m : Memory} {n a : Nat} {bs : List Byte} (h : m.canonical n)
    (hb : a + bs.length ≤ n) : (m.writeBytes a bs).canonical n := by
  obtain ⟨hwf, hbelow⟩ := h
  exact ⟨Memory.writeBytes_wf hwf a bs, Memory.writeBytes_below hbelow hb⟩

theorem Memory.canonical.write {m : Memory} {n a : Nat} (h : m.canonical n) (ha : a < n) (v : Byte) :
    (m.write a v).canonical n := h.writeBytes ha

/-- A store the host lists is canonical, and the empty file is. -/
theorem lookupStore_canonical {m : List (Nat × Store)} (h : storesCanonical m) (id : Nat) :
    (lookupStore m id).canonical := by
  obtain ⟨-, hcells⟩ := h
  induction m with
  | nil => exact Memory.canonical_nil 0
  | cons c m ih =>
    rw [lookupStore]
    split
    · exact (hcells c List.mem_cons_self).2
    · exact ih fun d hd => hcells d (List.mem_cons_of_mem c hd)

/-! #### Updates of the state -/

/-- Where the sub-blocks are kept, only the host's files matter. -/
theorem MemoryInv.of_keepsBlocks (h : MemoryInv s) (hk : KeepsBlocks s t) (hs : storesCanonical t.stores) :
    MemoryInv t := by
  obtain ⟨hparams, -, htbm, hfdc, htape⟩ := hk
  exact ⟨hparams ▸ h.tables, hs, htbm ▸ h.tbm, hfdc ▸ h.buf, htape ▸ h.deck⟩

theorem MemoryInv.of_stores_eq (h : MemoryInv s) (hk : KeepsBlocks s t) (hs : t.stores = s.stores) : MemoryInv t :=
  h.of_keepsBlocks hk (hs ▸ h.stores)

theorem MemoryInv.setTbm (h : MemoryInv s) {x : Tbm} (hx : x.BuffersOk) : MemoryInv (s.setTbm x) :=
  ⟨h.tables, h.stores, hx, h.buf, h.deck⟩

/-- The fields of TBM outside its buffers do not matter. -/
theorem MemoryInv.setTbm_of_buffers (h : MemoryInv s) {x : Tbm}
    (hx : x.gcr = s.tbm.gcr ∧ x.d64 = s.tbm.d64 ∧ x.bad = s.tbm.bad) :
    MemoryInv (s.setTbm x) := by
  obtain ⟨hgcr, hd64, hbad⟩ := hx
  refine h.setTbm ?_
  unfold Tbm.BuffersOk
  rw [hgcr, hd64, hbad]
  exact h.tbm

theorem MemoryInv.setFdc (h : MemoryInv s) {f : Fdc} (hf : f.buf.canonical fdcSector) : MemoryInv (s.setFdc f) :=
  ⟨h.tables, h.stores, h.tbm, hf, h.deck⟩

/-- The fields of the FDC outside its buffer do not matter. Where the goal alone names `f`, the proof is `by rfl`, which
waits for it. -/
theorem MemoryInv.setFdc_of_buf (h : MemoryInv s) {f : Fdc} (hf : f.buf = s.fdc.buf) :
    MemoryInv (s.setFdc f) := h.setFdc (hf.symm ▸ h.buf)

theorem MemoryInv.setTape (h : MemoryInv s) {x : Tape} (hx : x.medium.canonical) : MemoryInv (s.setTape (some x)) :=
  ⟨h.tables, h.stores, h.tbm, h.buf, fun _ hu => Option.some.inj hu ▸ hx⟩

theorem MemoryInv.setTape_none (h : MemoryInv s) : MemoryInv (s.setTape none) :=
  ⟨h.tables, h.stores, h.tbm, h.buf, fun _ hu => by cases hu⟩

theorem MemoryInv.returns (h : MemoryInv s) (r : Result) : MemoryInv (s.returns r) :=
  h.of_stores_eq (keepsBlocks_returns s r) rfl

theorem MemoryInv.raise (h : MemoryInv s) (k : IoError) : MemoryInv (s.raise k) :=
  h.of_stores_eq (keepsBlocks_raise s k) rfl

/-- The fields of a tape outside its medium do not matter. -/
theorem MemoryInv.withTape (h : MemoryInv s) {x y : Tape} (hx : x.medium.canonical) (r : Result)
    (hy : y.medium = x.medium) : MemoryInv (s.withTape y r) :=
  (h.setTape (hy.symm ▸ hx)).returns r

theorem MemoryInv.ioNext (h : MemoryInv s) : MemoryInv s.ioNext :=
  h.of_stores_eq (keepsBlocks_ioNext s) (State.ioNext_stores s)

theorem MemoryInv.indexNext (h : MemoryInv s) : MemoryInv s.indexNext :=
  h.of_stores_eq (keepsBlocks_indexNext s) (State.indexNext_stores s)

theorem MemoryInv.finish {α : Type} {f : α → Result} {out : Except IoError α × State} (h : MemoryInv out.2) :
    MemoryInv (finish f out) := h.of_stores_eq (keepsBlocks_finish f out) (finish_stores f out)

/-! #### Store accesses -/

theorem MemoryInv.ioNext_putStore (h : MemoryInv s) (id : Nat) {st : Store} (hst : st.canonical) :
    MemoryInv (s.ioNext.putStore id st) :=
  h.of_keepsBlocks (keepsBlocks_ioNext_putStore s id st) (updateStore_canonical h.ioNext.stores id hst)

theorem memRead_memoryInv (h : MemoryInv s) (id off n : Nat) : MemoryInv (memRead id off n s).2 :=
  h.of_stores_eq (memRead_keepsBlocks id off n s) (memRead_stores id off n s)

theorem memoryInv_of_memRead_eq {id off n : Nat} {r : ReadOutcome} (hr : memRead id off n s = (r, t))
    (h : MemoryInv s) : MemoryInv t :=
  h.of_stores_eq (keepsBlocks_of_memRead_eq hr) (stores_of_memRead_eq hr)

theorem memWrite_memoryInv (h : MemoryInv s) (id off : Nat) (bs : List Byte) : MemoryInv (memWrite id off bs s).2 := by
  obtain ⟨-, hw⟩ | ⟨-, hw⟩ := memWrite_cases id off bs s <;> rw [hw]
  · exact h.ioNext
  · exact h.ioNext_putStore id (Store.write_canonical (lookupStore_canonical h.stores id) off bs)

theorem putSound_memoryInv (h : MemoryInv s) (id : Nat) (c : Sound) : MemoryInv (putSound id c s).2 := by
  obtain ⟨-, hw⟩ | ⟨-, hw⟩ := putSound_cases id c s <;> rw [hw]
  · exact h.ioNext
  · exact h.ioNext_putStore id (st := .container c) trivial

theorem imageWrite_memoryInv (h : MemoryInv s) (f : Fdc) : MemoryInv (imageWrite f s).2 := by
  obtain ⟨-, hw⟩ | ⟨id, -, hw⟩ := imageWrite_cases f s <;> rw [hw]
  · exact h
  · exact memWrite_memoryInv h _ _ _

/-! #### The codec (40_gcr_codec.md R214, R237) -/

theorem encodeTrack_buffersOk {x : Tbm} (hx : x.BuffersOk) (p : Params) (trackNum : Byte) (nSectors nBytes : Nat) :
    (encodeTrack p trackNum nSectors nBytes x).BuffersOk := by
  obtain ⟨hgcr, hd64, hbad⟩ := hx
  unfold encodeTrack
  split
  · next hdomain =>
    simp only [trackDomain, Bool.and_eq_true, decide_eq_true_eq] at hdomain
    obtain ⟨-, hbytes⟩ := hdomain
    refine ⟨hgcr.writeBytes ?_, hd64, hbad⟩
    simp only [List.length_append, List.length_take, List.length_replicate]
    omega
  · exact ⟨hgcr, hd64, hbad⟩

/-- A scan of `n` sectors: a code for each, and the sector data within the buffer. -/
def ScanOk (n : Nat) (sc : Scan) : Prop := sc.code.length = n ∧ sc.d64.canonical d64BufCap

theorem ScanOk.report {n : Nat} {sc : Scan} (h : ScanOk n sc) (k : Nat) (e : Byte) (off : Nat) :
    ScanOk n (sc.report k e off) := by
  obtain ⟨hcode, hd64⟩ := h
  exact ⟨List.length_set.trans hcode, hd64⟩

/-- Recovered data go to the place of a sector below the count (40_gcr_codec.md R236). -/
theorem scanData_ok {n : Nat} {sc : Scan} (h : ScanOk n sc) (hn : n ≤ 21) {k : Nat} (hk : k < n) (b : Nat → Byte)
    (m j : Nat) : ScanOk n (scanData b m k j sc) := by
  unfold scanData
  split
  · exact h.report _ _ _
  dsimp only
  split
  · exact h.report _ _ _
  split
  · exact h.report _ _ _
  split
  · exact h.report _ _ _
  split
  · exact h.report _ _ _
  · obtain ⟨hcode, -⟩ := h.report k codeOk 0
    obtain ⟨-, hd64⟩ := h
    refine ⟨hcode, hd64.writeBytes ?_⟩
    simp only [List.length_take, d64BufCap]
    omega

theorem scanTurn_ok {n : Nat} {sc sc' : Scan} (h : ScanOk n sc) (hn : n ≤ 21) {b : Nat → Byte} {m : Nat}
    {trackNum : Byte} (hturn : scanTurn b m trackNum n sc = some sc') : ScanOk n sc' := by
  unfold scanTurn at hturn
  split at hturn
  · cases hturn
  dsimp only at hturn
  split at hturn
  · cases hturn
    exact h
  split at hturn
  · next hheader =>
    obtain ⟨-, hsector, -, -⟩ := hheader
    split at hturn
    · cases hturn
      exact h.report _ _ _
    split at hturn
    · cases hturn
      exact h.report _ _ _
    · cases hturn
      exact scanData_ok h hn hsector _ _ _
  · cases hturn
    exact h

theorem scanTrack_ok {n : Nat} (hn : n ≤ 21) (b : Nat → Byte) (m : Nat) (trackNum : Byte) (fuel : Nat) {sc : Scan}
    (h : ScanOk n sc) : ScanOk n (scanTrack b m trackNum n fuel sc) := by
  induction fuel generalizing sc with
  | zero => exact h
  | succ fuel ih =>
    unfold scanTrack
    split
    · split
      · exact h
      · next hturn => exact ih (scanTurn_ok h hn hturn)
    · exact h

theorem scanned_ok {x : Tbm} (hx : x.d64.canonical d64BufCap) {n : Nat} (hn : n ≤ 21) (trackNum : Byte) (m : Nat) :
    ScanOk n (scanned trackNum n m x) := by
  have hstart : ScanOk n (Scan.start n x.d64) := ⟨List.length_replicate, hx⟩
  unfold scanned
  dsimp only
  split
  · exact hstart
  · exact scanTrack_ok hn _ _ _ _ hstart

theorem decodeTrack_buffersOk {x : Tbm} (hx : x.BuffersOk) (trackNum : Byte) (nSectors nBytes : Nat) :
    (decodeTrack trackNum nSectors nBytes x).2.BuffersOk := by
  obtain ⟨hgcr, hd64, hbad⟩ := hx
  unfold decodeTrack
  split
  · next hdomain =>
    simp only [trackDomain, Bool.and_eq_true, decide_eq_true_eq] at hdomain
    obtain ⟨hsectors, -⟩ := hdomain
    obtain ⟨hcode, hdata⟩ := scanned_ok hd64 hsectors trackNum nBytes
    refine ⟨hgcr, hdata, hbad.writeBytes ?_⟩
    rw [hcode, badTableLen]
    omega
  · exact ⟨hgcr, hd64, hbad⟩

/-! #### The track buffer (41_track_buffer.md) -/

theorem badAllOk_canonical : badAllOk.canonical badTableLen := by
  unfold Memory.canonical
  decide

theorem construct_buffersOk (p : Params) : (Tbm.construct p).BuffersOk :=
  ⟨Memory.canonical_nil _, Memory.canonical_nil _, badAllOk_canonical⟩

theorem detached_buffersOk (x : Tbm) (p : Params) : (x.detached p).BuffersOk := construct_buffersOk p

theorem rotated_buffersOk {x : Tbm} (hx : x.BuffersOk) : x.rotated.BuffersOk := hx

theorem loaded_buffersOk {x : Tbm} (hx : x.BuffersOk) {p : Params} (hp : TrackTablesOk p) {track : Nat}
    {data : List Byte} {bad : Memory} (hdata : data.length = 256 * sectorsPerTrack p track)
    (hbad : bad.canonical badTableLen) : (x.loaded p track data bad).BuffersOk := by
  obtain ⟨hgcr, -, -⟩ := hx
  have hsectors := sectorsPerTrack_le hp track
  have hd64 : (Memory.ofBytes data).canonical d64BufCap := by
    refine Memory.ofBytes_canonical ?_
    rw [hdata, d64BufCap]
    omega
  exact encodeTrack_buffersOk (x := { x with d64 := Memory.ofBytes data, bad := bad }) ⟨hgcr, hd64, hbad⟩ _ _ _ _

theorem loadTrack_memoryInv (h : MemoryInv s) (id track : Nat) : MemoryInv (loadTrack id track s).2 := by
  unfold loadTrack
  split
  · next data s1 hread =>
    have h1 := memoryInv_of_memRead_eq hread h
    have hdata : data.length = 256 * sectorsPerTrack s1.params track := by
      rw [(keepsBlocks_of_memRead_eq hread).params]
      exact memRead_ok_length hread
    split
    · split
      · next codes s2 hcodes =>
        have h2 := memoryInv_of_memRead_eq hcodes h1
        have hparams := (keepsBlocks_of_memRead_eq hcodes).params
        obtain ⟨-, -, hbad⟩ := h2.tbm
        refine h2.setTbm (loaded_buffersOk h2.tbm h2.tables (hparams ▸ hdata) (hbad.writeBytes ?_))
        have hsectors := sectorsPerTrack_le h1.tables track
        rw [memRead_ok_length hcodes, badTableLen]
        omega
      · next hcodes => exact memoryInv_of_memRead_eq hcodes h1
    · obtain ⟨-, -, hbad⟩ := h1.tbm
      exact h1.setTbm (loaded_buffersOk h1.tbm h1.tables hdata hbad)
  · next hread => exact memoryInv_of_memRead_eq hread h

theorem readTrack_memoryInv (h : MemoryInv s) (trackNum : Int) : MemoryInv (readTrack trackNum s).2 := by
  have hclear : MemoryInv (s.setTbm { s.tbm.cleared with
      currentTrack := BitVec.ofInt 8 (trackArg trackNum s.tbm.currentTrack) }) :=
    h.setTbm (construct_buffersOk s.params)
  unfold readTrack
  dsimp only
  split
  · exact hclear
  split
  · exact loadTrack_memoryInv hclear _ _
  · exact hclear

theorem writeTrack_memoryInv (h : MemoryInv s) (id track : Nat) : MemoryInv (writeTrack id track s).2 := by
  have hdata := fun off bs => memWrite_memoryInv h id off bs
  unfold writeTrack
  dsimp only
  split
  · exact hdata _ _
  split
  · split <;> exact memWrite_memoryInv (hdata _ _) _ _ _
  · exact hdata _ _

theorem flushTrack_memoryInv (h : MemoryInv s) (trackNum : Int) : MemoryInv (flushTrack trackNum s).2 := by
  have hclean : MemoryInv (s.setTbm { s.tbm with trackDirtyFlag := false }) := h.setTbm_of_buffers ⟨rfl, rfl, rfl⟩
  have hdecoded := fun n m => h.setTbm (decodeTrack_buffersOk hclean.tbm s.tbm.currentTrack n m)
  unfold flushTrack
  dsimp only
  split
  · exact h
  split
  · exact h
  split
  · exact hclean
  split
  · exact hclean
  split
  · exact hdecoded _ _
  · exact writeTrack_memoryInv (hdecoded _ _) _ _

theorem setCurrentTrack_memoryInv (h : MemoryInv s) (trackNum : Int) : MemoryInv (setCurrentTrack trackNum s).2 := by
  unfold setCurrentTrack
  dsimp only
  split
  · exact h
  · have hflush := flushTrack_memoryInv h (-1)
    exact readTrack_memoryInv (hflush.setTbm_of_buffers (by exact ⟨rfl, rfl, rfl⟩)) _

theorem attachImage_memoryInv (h : MemoryInv s) (id : Nat) (readOnly : Bool) :
    MemoryInv (attachImage id readOnly s).2 := by
  unfold attachImage
  split
  · exact h
  · dsimp only
    split <;> exact setCurrentTrack_memoryInv (h.setTbm_of_buffers (by exact ⟨rfl, rfl, rfl⟩)) _

theorem setImageFile_memoryInv (h : MemoryInv s) (file : Option Nat) (readOnly : Bool) :
    MemoryInv (setImageFile file readOnly s).2 := by
  have hflush : MemoryInv
      (match s.tbm.imageFile with
        | none => (Except.ok true, s)
        | some _ => flushTrack (-1) s).2 := by
    split
    · exact h
    · exact flushTrack_memoryInv h _
  have hdetach := fun (x : Tbm) (p : Params) => hflush.setTbm (rotated_buffersOk (detached_buffersOk x p))
  unfold setImageFile
  dsimp only
  split
  · exact hdetach _ _
  · exact hdetach _ _
  · exact attachImage_memoryInv (hdetach _ _) _ _

/-! #### The commands of the FDC (43_fdc_commands.md) -/

theorem endCommand_memoryInv (h : MemoryInv s) (st : Byte) : MemoryInv (endCommand st s) := h.setFdc_of_buf rfl

theorem startTransfer_memoryInv (h : MemoryInv s) : MemoryInv (startTransfer s) := h.setFdc_of_buf rfl

theorem typeIEnd_memoryInv (h : MemoryInv s) (v : Bool) {f : Fdc} (hf : f.buf = s.fdc.buf) :
    MemoryInv (typeIEnd v (s.setFdc f)) := by
  have hset := h.setFdc_of_buf hf
  exact hset.indexNext.setFdc hset.buf

theorem selectSide_memoryInv (h : MemoryInv s) (hs pc : Bool) : MemoryInv (selectSide hs pc s) := by
  unfold selectSide
  split
  · exact h.setFdc_of_buf rfl
  · exact h

theorem cmdReadSector_memoryInv (h : MemoryInv s) (hs pc : Bool) : MemoryInv (cmdReadSector hs pc s) := by
  have hsel := selectSide_memoryInv h hs pc
  unfold cmdReadSector
  dsimp only
  generalize selectSide hs pc s = s1 at hsel
  split
  · exact endCommand_memoryInv hsel _
  split
  · have hoff : MemoryInv (s1.setFdc { s1.fdc with xferOffset := sectorOffset s1.fdc }) := hsel.setFdc_of_buf rfl
    split
    · next hread =>
      have hbytes := memRead_ok_length hread
      exact startTransfer_memoryInv
        ((memoryInv_of_memRead_eq hread hoff).setFdc (Memory.ofBytes_canonical (Nat.le_of_eq hbytes)))
    · next hread => exact endCommand_memoryInv (memoryInv_of_memRead_eq hread hoff) _
  · exact endCommand_memoryInv hsel _

theorem cmdWriteSector_memoryInv (h : MemoryInv s) (hs pc : Bool) : MemoryInv (cmdWriteSector hs pc s) := by
  have hsel := selectSide_memoryInv h hs pc
  unfold cmdWriteSector
  dsimp only
  split
  · exact endCommand_memoryInv hsel _
  split
  · exact startTransfer_memoryInv (hsel.setFdc_of_buf rfl)
  · exact endCommand_memoryInv hsel _

/-- The six ID bytes fill the buffer's end. -/
theorem cmdReadAddress_memoryInv (h : MemoryInv s) : MemoryInv (cmdReadAddress s) := by
  unfold cmdReadAddress
  split
  · exact h.setFdc (h.buf.writeBytes (Nat.le_refl fdcSector))
  · exact endCommand_memoryInv h _

theorem flushPartial_memoryInv (h : MemoryInv s) (hp : partialWrite s.fdc = true) : MemoryInv (flushPartial s) := by
  have hpos : s.fdc.bufPos < fdcSector := by
    simp only [partialWrite, Bool.and_eq_true, decide_eq_true_eq] at hp
    obtain ⟨⟨hpos, -⟩, -⟩ := hp
    exact hpos
  have hpad : MemoryInv (s.setFdc s.fdc.padded) := by
    refine h.setFdc (h.buf.writeBytes ?_)
    rw [List.length_replicate]
    omega
  have hwrite := imageWrite_memoryInv hpad s.fdc.padded
  unfold flushPartial
  dsimp only
  split
  · exact hwrite.setFdc_of_buf rfl
  · exact hwrite

theorem flushIfPartial_memoryInv (h : MemoryInv s) :
    MemoryInv (if partialWrite s.fdc then flushPartial s else s) := by
  split
  · next hp => exact flushPartial_memoryInv h hp
  · exact h

theorem forceInterrupt_memoryInv (h : MemoryInv s) (i3 i2 : Bool) : MemoryInv (forceInterrupt i3 i2 s) := by
  have hflags : MemoryInv (s.setFdc { s.fdc with interruptRequestFlag := false, forceIntPending := false }) :=
    (h.setFdc_of_buf rfl)
  have hflush := flushIfPartial_memoryInv hflags
  exact hflush.setFdc_of_buf rfl

theorem execute_memoryInv (h : MemoryInv s) (c : Byte) : MemoryInv (execute c s) := by
  unfold execute
  split
  · exact typeIEnd_memoryInv h _ rfl
  split
  · exact typeIEnd_memoryInv h _ rfl
  split
  · exact typeIEnd_memoryInv h _ rfl
  split
  · exact typeIEnd_memoryInv h _ rfl
  split
  · exact typeIEnd_memoryInv h _ rfl
  split
  · exact cmdReadSector_memoryInv h _ _
  split
  · exact cmdWriteSector_memoryInv h _ _
  split
  · exact cmdReadAddress_memoryInv h
  split
  · exact forceInterrupt_memoryInv h _ _
  split <;> exact endCommand_memoryInv h _

/-- A command row: whatever transfer its byte ends, the body keeps the memories and so does the row. -/
theorem acceptCommand_memoryInv (h : MemoryInv s) (c : Byte) {body : State → State}
    (hbody : ∀ {u : State}, MemoryInv u → MemoryInv (body u)) : MemoryInv (acceptCommand c body s) := by
  have hload : ∀ {u : State}, MemoryInv u → MemoryInv (loadCommand c u) := fun hu => hu.setFdc_of_buf rfl
  unfold acceptCommand
  split
  · split
    · exact h.setFdc_of_buf rfl
    · exact hbody (hload (forceInterrupt_memoryInv h _ _))
  · exact hbody (hload h)

theorem acceptForce_memoryInv (h : MemoryInv s) (c : Byte) (i3 i2 : Bool) : MemoryInv (acceptForce c i3 i2 s) := by
  have hphase : MemoryInv (s.setFdc { s.fdc with busyHackPhase := true }) := h.setFdc_of_buf rfl
  have hforce := forceInterrupt_memoryInv hphase i3 i2
  exact hforce.setFdc_of_buf rfl

theorem writeCommand_memoryInv (h : MemoryInv s) (c : Byte) : MemoryInv (writeCommand c s) := by
  unfold writeCommand
  split
  · exact acceptForce_memoryInv h _ _ _
  · exact acceptCommand_memoryInv h c fun hu => execute_memoryInv hu c

/-! #### The ports and the attach of the FDC (42_fdc_ports.md) -/

theorem nextSector_memoryInv (h : MemoryInv s) : MemoryInv (nextSector s) := by
  unfold nextSector
  split
  · exact execute_memoryInv (h.setFdc_of_buf (by rfl)) _
  · exact h.setFdc_of_buf rfl

theorem endBlock_memoryInv (h : MemoryInv s) : MemoryInv (endBlock s) := h.setFdc_of_buf rfl

theorem endWriteSector_memoryInv (h : MemoryInv s) : MemoryInv (endWriteSector s) := by
  have hwrite := imageWrite_memoryInv (endBlock_memoryInv h) (endBlock s).fdc
  unfold endWriteSector
  dsimp only
  split
  · exact endCommand_memoryInv hwrite _
  · exact nextSector_memoryInv hwrite

theorem readData_memoryInv (h : MemoryInv s) : MemoryInv (readData s) := by
  have hout : MemoryInv (transferOut s) := h.setFdc_of_buf rfl
  unfold readData
  dsimp only
  split
  · refine MemoryInv.returns ?_ _
    split
    · exact nextSector_memoryInv (endBlock_memoryInv hout)
    · exact hout
  split
  · refine MemoryInv.returns ?_ _
    split
    · exact endCommand_memoryInv (hout.setFdc_of_buf (by rfl)) _
    · exact hout
  · exact h.returns _

theorem writeData_memoryInv (h : MemoryInv s) (v : Byte) : MemoryInv (writeData v s) := by
  have hreg : MemoryInv (s.setFdc { s.fdc with dataRegister := v }) := h.setFdc_of_buf rfl
  unfold writeData
  dsimp only
  split
  · next hrun =>
    obtain ⟨hpos, -⟩ := hrun
    have hin : MemoryInv (transferIn v (s.setFdc { s.fdc with dataRegister := v })) :=
      hreg.setFdc (hreg.buf.write hpos v)
    refine MemoryInv.returns ?_ _
    split
    · exact endWriteSector_memoryInv hin
    · exact hin
  · exact hreg.returns _

theorem endTransfer_memoryInv (h : MemoryInv s) : MemoryInv (endTransfer s) := by
  have hflush := flushIfPartial_memoryInv h
  unfold endTransfer
  dsimp only
  generalize (if partialWrite s.fdc = true then flushPartial s else s) = s1 at hflush
  split
  · exact hflush.setFdc_of_buf rfl
  · exact hflush

theorem findGeometry_stores (id t h n : Nat) (s : State) : (findGeometry id t h n s).2.stores = s.stores := by
  unfold findGeometry
  dsimp only
  split
  · split <;> rfl
  split
  · next hread => split <;> exact stores_of_memRead_eq hread
  · next hread => exact stores_of_memRead_eq hread
  · next hread => exact stores_of_memRead_eq hread

theorem attachDisk_memoryInv (h : MemoryInv s) (id : Nat) (readOnly : Bool) (nt ns nn : Nat) :
    MemoryInv (attachDisk id readOnly nt ns nn s).2 := by
  unfold attachDisk
  split
  · exact h.setFdc_of_buf rfl
  · exact h

theorem setDiskImageFile_memoryInv (h : MemoryInv s) (file : Option Nat) (readOnly : Bool) (nt ns nn : Nat) :
    MemoryInv (setDiskImageFile file readOnly nt ns nn s).2 := by
  have hend := endTransfer_memoryInv h
  have hdetach : MemoryInv ((endTransfer s).setFdc (endTransfer s).fdc.detached) := hend.setFdc_of_buf rfl
  have hfind : ∀ id, MemoryInv
      (findGeometry id nt ns nn ((endTransfer s).setFdc (endTransfer s).fdc.detached)).2 := fun id =>
    hdetach.of_stores_eq (findGeometry_keepsBlocks id nt ns nn _) (findGeometry_stores id nt ns nn _)
  unfold setDiskImageFile
  dsimp only
  split
  · exact hdetach
  next id =>
  have hgeometry := hfind id
  split
  · next hf =>
    rw [hf] at hgeometry
    exact attachDisk_memoryInv hgeometry _ _ _ _ _
  · next hf =>
    rw [hf] at hgeometry
    exact hgeometry

/-! #### The resident block (44_tape.md R432) -/

theorem blockCount_le (x : Tape) (b : Nat) : blockCount x b ≤ tapeBlock := Nat.min_le_left _ _

theorem loadBlock_canonical (x : Tape) (b : Nat) (s : State) : (loadBlock x b s).1.canonical tapeBlock := by
  unfold loadBlock
  dsimp only
  split
  · exact Memory.canonical_nil _
  split
  · exact Memory.ofBytes_canonical (Nat.le_trans (List.length_take_le _ _) (blockCount_le x b))
  · exact Memory.canonical_nil _

theorem bringIn_canonical {n : NativeTape} (hn : n.blockBuf.canonical tapeBlock) (x : Tape) (b : Nat) (s : State) :
    (bringIn x n b s).2.1.blockBuf.canonical tapeBlock := by
  obtain ⟨-, h⟩ | ⟨-, h⟩ := bringIn_cases x n b s <;> rw [h]
  · exact hn
  · exact loadBlock_canonical x b _

theorem writeNative_canonical {n : NativeTape} (hn : n.blockBuf.canonical tapeBlock) (x : Tape) (i : Nat) (v : Byte)
    (s : State) : (writeNative x n i v s).2.1.blockBuf.canonical tapeBlock :=
  (bringIn_canonical hn x (i / tapeBlock) s).write (Nat.mod_lt _ (Nat.zero_lt_succ 4095)) _

section
variable {x : Tape}

theorem medium_canonical_native {n : NativeTape} (hx : x.medium.canonical) (hm : x.medium = .native n) :
    n.blockBuf.canonical tapeBlock := by
  rw [hm] at hx
  exact hx

theorem readSample_canonical (hx : x.medium.canonical) (i : Nat) (s : State) :
    (readSample x i s).2.2.1.medium.canonical := by
  unfold readSample
  split
  · next hm => exact bringIn_canonical (medium_canonical_native hx hm) x (i / tapeBlock) s
  · trivial
  · trivial

theorem writeSample_canonical (hx : x.medium.canonical) (i : Nat) (v : Byte) (s : State) :
    (writeSample x i v s).2.1.medium.canonical := by
  unfold writeSample
  split
  · next hm => exact writeNative_canonical (medium_canonical_native hx hm) x i v s
  · exact hx
  · trivial

theorem flushMedium_canonical (hx : x.medium.canonical) (s : State) : (flushMedium x s).2.1.medium.canonical := by
  unfold flushMedium
  split
  · next hm =>
    have hn := medium_canonical_native hx hm
    exact hn
  · exact hx
  · trivial

theorem moveTo_canonical (hx : x.medium.canonical) (p : Nat) : (x.moveTo p).medium.canonical := by
  unfold Tape.moveTo
  dsimp only
  split
  · trivial
  · exact hx

theorem deleteCueAt_medium (p : Nat) (x : Tape) : (deleteCueAt p x).medium = x.medium := by
  unfold deleteCueAt
  split <;> rfl

end

/-! #### The files behind the tape (44_tape.md R432, R433, R452) -/

theorem loadBlock_memoryInv (h : MemoryInv s) (x : Tape) (b : Nat) : MemoryInv (loadBlock x b s).2 := by
  unfold loadBlock
  dsimp only
  split
  · exact h
  split
  · next hread => exact memoryInv_of_memRead_eq hread h
  · next hread => exact memoryInv_of_memRead_eq hread h

theorem writeBack_memoryInv (h : MemoryInv s) (x : Tape) (n : NativeTape) : MemoryInv (writeBack x n s).2 := by
  unfold writeBack
  split
  · split
    · unfold writeBlock
      split
      · exact h
      · exact memWrite_memoryInv h _ _ _
    · exact h
  · exact h

theorem bringIn_memoryInv (h : MemoryInv s) (x : Tape) (n : NativeTape) (b : Nat) :
    MemoryInv (bringIn x n b s).2.2 := by
  obtain ⟨-, hb⟩ | ⟨-, hb⟩ := bringIn_cases x n b s <;> rw [hb]
  · exact h
  · exact loadBlock_memoryInv (writeBack_memoryInv h x n) x b

theorem writeCues_memoryInv (h : MemoryInv s) (x : Tape) : MemoryInv (writeCues x s).2 := by
  unfold writeCues
  split
  · exact memWrite_memoryInv h _ _ _
  · exact h

theorem loadFrames_memoryInv (h : MemoryInv s) (x : Tape) (f : SoundTape) (b : Nat) :
    MemoryInv (loadFrames x f b s).2 := by
  unfold loadFrames
  dsimp only
  split
  · exact h
  split <;> exact h.ioNext

theorem writeBackFrames_memoryInv (h : MemoryInv s) (x : Tape) (f : SoundTape) :
    MemoryInv (writeBackFrames x f s).2 := by
  unfold writeBackFrames
  split
  · split
    · unfold writeFrames
      split
      · exact h
      · exact putSound_memoryInv h _ _
    · exact h
  · exact h

theorem bringInFrames_memoryInv (h : MemoryInv s) (x : Tape) (f : SoundTape) (b : Nat) :
    MemoryInv (bringInFrames x f b s).2.2 := by
  obtain ⟨-, hb⟩ | ⟨-, hb⟩ := bringInFrames_cases x f b s <;> rw [hb]
  · exact h
  · exact loadFrames_memoryInv (writeBackFrames_memoryInv h x f) x f b

theorem readSample_memoryInv (h : MemoryInv s) (x : Tape) (i : Nat) : MemoryInv (readSample x i s).2.2.2 := by
  unfold readSample
  split
  · exact bringIn_memoryInv h _ _ _
  · exact h
  · exact bringInFrames_memoryInv h _ _ _

theorem writeSample_memoryInv (h : MemoryInv s) (x : Tape) (i : Nat) (v : Byte) :
    MemoryInv (writeSample x i v s).2.2 := by
  unfold writeSample
  split
  · exact bringIn_memoryInv h _ _ _
  · exact h
  · exact bringInFrames_memoryInv h _ _ _

theorem flushMedium_memoryInv (h : MemoryInv s) (x : Tape) : MemoryInv (flushMedium x s).2.2 := by
  unfold flushMedium
  split
  · exact writeCues_memoryInv (writeBack_memoryInv h x _) x
  · exact h
  · exact writeBackFrames_memoryInv h x _

/-! #### The deck -/

section
variable {x : Tape}

theorem flushInto_memoryInv (h : MemoryInv s) {y : Tape} (hy : y.medium.canonical) (hx : x.medium = y.medium) :
    MemoryInv (flushInto x s) := by
  rw [← hx] at hy
  have hflush := (flushMedium_memoryInv h x).setTape (flushMedium_canonical hy s)
  unfold flushInto
  dsimp only
  split
  · exact hflush.raise _
  · exact hflush.returns _

theorem endTick_memoryInv (h : MemoryInv s) {y : Tape} (hy : y.medium.canonical) (failed : Bool)
    (hx : x.medium = y.medium) : MemoryInv (endTick failed x s) := by
  rw [← hx] at hy
  unfold endTick
  split
  · exact (h.setTape hy).raise _
  · exact h.withTape hy _ rfl

theorem recordTick_memoryInv (h : MemoryInv s) (hx : x.medium.canonical) : MemoryInv (recordTick x s) := by
  have hcue : (deleteCueAt x.tapePosition x).medium.canonical := (deleteCueAt_medium x.tapePosition x).symm ▸ hx
  exact endTick_memoryInv (writeSample_memoryInv h _ _ _) (writeSample_canonical hcue _ _ s) _ rfl

theorem playTick_memoryInv (h : MemoryInv s) (hx : x.medium.canonical) : MemoryInv (playTick x s) :=
  endTick_memoryInv (readSample_memoryInv h _ _) (readSample_canonical hx _ s) _ rfl

theorem tick_memoryInv (h : MemoryInv s) (hx : x.medium.canonical) : MemoryInv (tick x s) := by
  unfold tick
  split
  · split
    · exact h.withTape hx _ rfl
    · exact recordTick_memoryInv h hx
  split
  · exact playTick_memoryInv h hx
  · exact h.withTape hx _ rfl

end

/-- The end of an open: the memories kept, and a canonical block in the tape there is. -/
def OpensOk (out : Except IoError Tape × State) : Prop :=
  MemoryInv out.2 ∧ ∀ x, out.1 = .ok x → x.medium.canonical

theorem OpensOk.error (h : MemoryInv s) (k : IoError) : OpensOk (.error k, s) := ⟨h, fun _ hx => by cases hx⟩

theorem OpensOk.ok (h : MemoryInv s) {x : Tape} (hx : x.medium.canonical) : OpensOk (.ok x, s) :=
  ⟨h, fun _ hu => Except.ok.inj hu ▸ hx⟩

theorem nativeTape_canonical (base : Tape) (bits rate len : Nat) (cues : List Nat) :
    (nativeTape base bits rate len cues).medium.canonical := Memory.canonical_nil tapeBlock

theorem openNative_opensOk (h : MemoryInv s) (a : OpenArgs) (base : Tape) : OpensOk (openNative a base s) := by
  unfold openNative
  split
  · split
    · exact .error h _
    · dsimp only
      split
      · exact .error (memWrite_memoryInv h _ _ _) _
      · exact .ok (memWrite_memoryInv h _ _ _) (nativeTape_canonical _ _ _ _ _)
  split
  · next hread => exact .error (memoryInv_of_memRead_eq hread h) _
  · next hread => exact .error (memoryInv_of_memRead_eq hread h) _
  · next hread =>
    split
    · exact .error (memoryInv_of_memRead_eq hread h) _
    · exact .ok (memoryInv_of_memRead_eq hread h) (nativeTape_canonical _ _ _ _ _)

theorem readPulseData_memoryInv (h : MemoryInv s) (id : Nat) : MemoryInv (readPulseData id s).2 := by
  unfold readPulseData
  dsimp only
  split
  · exact h
  · exact memRead_memoryInv h _ _ _

theorem openLegacyTap_opensOk (h : MemoryInv s) (a : OpenArgs) (base : Tape) : OpensOk (openLegacyTap a base s) := by
  unfold openLegacyTap
  split
  · exact .error h _
  split
  · next hread => exact .error (memoryInv_of_memRead_eq hread h) _
  · next hread => exact .error (memoryInv_of_memRead_eq hread h) _
  · next s1 hread =>
    have h1 := memoryInv_of_memRead_eq hread h
    split
    · exact .error h1 _
    · have hdata := readPulseData_memoryInv h1 a.store
      split
      · next hpulses =>
        rw [hpulses] at hdata
        exact .ok hdata trivial
      · next hpulses =>
        rw [hpulses] at hdata
        exact .error hdata _

theorem openSoundFile_opensOk (h : MemoryInv s) (a : OpenArgs) (base : Tape) : OpensOk (openSoundFile a base s) := by
  unfold openSoundFile
  split
  · split
    · exact .error h _
    · dsimp only
      split
      · exact .error (putSound_memoryInv h _ _) _
      · exact .ok (putSound_memoryInv h _ _) trivial
  split
  · exact .error h.ioNext _
  split
  · exact .error h.ioNext _
  split
  · exact .error h.ioNext _
  · exact .ok h.ioNext trivial

theorem openFormat_opensOk (h : MemoryInv s) (a : OpenArgs) : OpensOk (openFormat a s) := by
  unfold openFormat
  split
  · exact openNative_opensOk h a _
  · exact openLegacyTap_opensOk h a _
  · exact openSoundFile_opensOk h a _

theorem closeTape_memoryInv (h : MemoryInv s) : MemoryInv (closeTape s) := by
  unfold closeTape
  split
  · exact h
  · exact (flushMedium_memoryInv h _).setTape_none

theorem openTape_memoryInv (h : MemoryInv s) (a : OpenArgs) : MemoryInv (openTape a s) := by
  have hclose := closeTape_memoryInv h
  obtain ⟨hopen, htape⟩ := openFormat_opensOk hclose a
  unfold openTape
  dsimp only
  split
  · split
    · next hf =>
      rw [hf] at hopen htape
      exact hopen.withTape (htape _ rfl) _ rfl
    · next hf =>
      rw [hf] at hopen
      exact hopen.raise _
  · exact hclose.raise _

/-- An operation on the open tape keeps the memories; with none open nothing changes (44_tape.md R402). -/
theorem onTape_memoryInv (h : MemoryInv s) {f : Tape → State → State}
    (hf : ∀ x, x.medium.canonical → MemoryInv (f x s)) : ∃ u, onTape f s = .next u ∧ MemoryInv u := by
  cases hs : s.tape with
  | none => exact ⟨_, onTape_none hs, h.returns _⟩
  | some x => exact ⟨_, onTape_some hs, hf x (h.deck x hs)⟩

theorem execPlay_memoryInv (h : MemoryInv s) : ∃ u, execPlay s = .next u ∧ MemoryInv u :=
  onTape_memoryInv h fun _ hx => h.withTape hx _ rfl

theorem execStop_memoryInv (h : MemoryInv s) : ∃ u, execStop s = .next u ∧ MemoryInv u :=
  onTape_memoryInv h fun _ hx => flushInto_memoryInv h hx rfl

theorem execRunOneSample_memoryInv (h : MemoryInv s) : ∃ u, execRunOneSample s = .next u ∧ MemoryInv u :=
  onTape_memoryInv h fun _ hx => tick_memoryInv h hx

theorem execSetOutputSignal_memoryInv (h : MemoryInv s) (v : Byte) :
    ∃ u, execSetOutputSignal v s = .next u ∧ MemoryInv u :=
  onTape_memoryInv h fun _ hx => h.withTape hx _ rfl

theorem execTapeSeek_memoryInv (h : MemoryInv s) (secs : Rat) :
    ∃ u, execTapeSeek secs s = .next u ∧ MemoryInv u :=
  onTape_memoryInv h fun _ hx => flushInto_memoryInv h (moveTo_canonical hx _) rfl

theorem execSeekToCuePoint_memoryInv (h : MemoryInv s) (forward : Bool) (secs : Rat) :
    ∃ u, execSeekToCuePoint forward secs s = .next u ∧ MemoryInv u :=
  onTape_memoryInv h fun _ hx => flushInto_memoryInv h (moveTo_canonical hx _) rfl

theorem execDeleteAllCuePoints_memoryInv (h : MemoryInv s) :
    ∃ u, execDeleteAllCuePoints s = .next u ∧ MemoryInv u :=
  onTape_memoryInv h fun _ hx => h.withTape hx _ rfl

theorem execRecord_memoryInv (h : MemoryInv s) : ∃ u, execRecord s = .next u ∧ MemoryInv u := by
  refine onTape_memoryInv h fun x hx => ?_
  split
  · exact h.returns _
  · exact h.returns _
  · exact h.withTape hx _ rfl

theorem execSetIsMotorOn_memoryInv (h : MemoryInv s) (b : Bool) :
    ∃ u, execSetIsMotorOn b s = .next u ∧ MemoryInv u := by
  refine onTape_memoryInv h fun x hx => ?_
  split
  · exact flushInto_memoryInv h hx rfl
  · exact h.withTape hx _ rfl

theorem execGetInputSignal_memoryInv (h : MemoryInv s) : ∃ u, execGetInputSignal s = .next u ∧ MemoryInv u := by
  unfold execGetInputSignal
  split <;> exact ⟨_, rfl, h.returns _⟩

theorem execAddCuePoint_memoryInv (h : MemoryInv s) : ∃ u, execAddCuePoint s = .next u ∧ MemoryInv u := by
  unfold execAddCuePoint
  split
  · exact ⟨_, rfl, h.returns _⟩
  next x hs =>
  split
  · exact ⟨_, rfl, h.returns _⟩
  split
  · exact ⟨_, rfl, h.returns _⟩
  · exact ⟨_, rfl, h.withTape (h.deck x hs) _ rfl⟩

theorem execDeleteNearestCuePoint_memoryInv (h : MemoryInv s) :
    ∃ u, execDeleteNearestCuePoint s = .next u ∧ MemoryInv u := by
  unfold execDeleteNearestCuePoint
  split
  · exact ⟨_, rfl, h.returns _⟩
  next x hs =>
  split
  · exact ⟨_, rfl, h.returns _⟩
  · exact ⟨_, rfl, h.withTape (h.deck x hs) _ rfl⟩

theorem execGetTapeInfo_memoryInv (h : MemoryInv s) : ∃ u, execGetTapeInfo s = .next u ∧ MemoryInv u := by
  unfold execGetTapeInfo
  split <;> exact ⟨_, rfl, h.returns _⟩

/-! #### Every instruction -/

/-- A byte written in the track goes below the track's size (41_track_buffer.md R263). -/
theorem execGcrWriteByte_memoryInv (h : MemoryInv s) (i : Nat) (v : Byte) :
    ∃ u, execGcrWriteByte i v s = .next u ∧ MemoryInv u := by
  obtain ⟨hgcr, hd64, hbad⟩ := h.tbm
  unfold execGcrWriteByte
  dsimp only
  split
  · exact ⟨_, rfl, h.returns _⟩
  · next hsize =>
    have hlt := Nat.lt_of_lt_of_le (Nat.mod_lt i (Nat.pos_of_ne_zero hsize)) (trackSize_le h.tables _)
    refine ⟨_, rfl, (h.setTbm ?_).returns _⟩
    exact ⟨hgcr.write hlt v, hd64, hbad⟩

theorem execSetSectorErrorCode_memoryInv (h : MemoryInv s) (sector : Nat) (code : Byte) :
    ∃ u, execSetSectorErrorCode sector code s = .next u ∧ MemoryInv u := by
  obtain ⟨hgcr, hd64, hbad⟩ := h.tbm
  unfold execSetSectorErrorCode
  split
  · next hlt =>
    refine ⟨_, rfl, (h.setTbm ?_).returns _⟩
    exact ⟨hgcr, hd64, hbad.write hlt code⟩
  · exact ⟨_, rfl, h.returns _⟩

/-- Every instruction completes and keeps the memories: one line for each. -/
theorem exec_memoryInv (i : Instr) (h : MemoryInv s) : ∃ u, exec i s = .next u ∧ MemoryInv u := by
  have hcommand := fun (c : Byte) (body : State → State) (hbody : ∀ {u : State}, MemoryInv u → MemoryInv (body u)) =>
    (acceptCommand_memoryInv h c hbody).returns .none
  cases i with
  | restore a v r => exact ⟨_, rfl, hcommand _ _ fun hu => typeIEnd_memoryInv hu v rfl⟩
  | seek a v r => exact ⟨_, rfl, hcommand _ _ fun hu => typeIEnd_memoryInv hu v rfl⟩
  | step u a v r => exact ⟨_, rfl, hcommand _ _ fun hu => typeIEnd_memoryInv hu v rfl⟩
  | stepIn u a v r => exact ⟨_, rfl, hcommand _ _ fun hu => typeIEnd_memoryInv hu v rfl⟩
  | stepOut u a v r => exact ⟨_, rfl, hcommand _ _ fun hu => typeIEnd_memoryInv hu v rfl⟩
  | rdsec m hs e pc b0 => exact ⟨_, rfl, hcommand _ _ fun hu => cmdReadSector_memoryInv hu hs pc⟩
  | wrsec m hs e pc a0 => exact ⟨_, rfl, hcommand _ _ fun hu => cmdWriteSector_memoryInv hu hs pc⟩
  | rdaddr hs e b1 b0 => exact ⟨_, rfl, hcommand _ _ fun hu => cmdReadAddress_memoryInv hu⟩
  | forceint i3 i2 i1 i0 => exact ⟨_, rfl, (acceptForce_memoryInv h _ i3 i2).returns _⟩
  | rdtrk hs e b1 b0 => exact ⟨_, rfl, hcommand _ _ fun hu => endCommand_memoryInv hu _⟩
  | wrtrk hs e p b0 => exact ⟨_, rfl, hcommand _ _ fun hu => endCommand_memoryInv hu _⟩
  | st => exact ⟨_, rfl, (h.setFdc_of_buf (by rfl)).returns _⟩
  | cmd v => exact ⟨_, rfl, (writeCommand_memoryInv h v).returns _⟩
  | rtr => exact ⟨_, rfl, h.returns _⟩
  | wtr v => exact ⟨_, rfl, (h.setFdc_of_buf (by rfl)).returns _⟩
  | rsr => exact ⟨_, rfl, h.returns _⟩
  | wsr v => exact ⟨_, rfl, (h.setFdc_of_buf (by rfl)).returns _⟩
  | rdr => exact ⟨_, rfl, readData_memoryInv h⟩
  | wdr v => exact ⟨_, rfl, writeData_memoryInv h v⟩
  | gcrEncodeFourBytes b0 b1 b2 b3 => exact ⟨_, rfl, h.returns _⟩
  | gcrDecodeFourBytes g0 g1 g2 g3 g4 => exact ⟨_, rfl, h.returns _⟩
  | gcrEncodeTrack k n m => exact ⟨_, rfl, (h.setTbm (encodeTrack_buffersOk h.tbm _ k n m)).returns _⟩
  | gcrDecodeTrack k n m => exact ⟨_, rfl, (h.setTbm (decodeTrack_buffersOk h.tbm k n m)).returns _⟩
  | setImageFile file ro => exact ⟨_, rfl, (setImageFile_memoryInv h file ro).finish⟩
  | readTrack k => exact ⟨_, rfl, (readTrack_memoryInv h k).returns _⟩
  | flushTrack k => exact ⟨_, rfl, (flushTrack_memoryInv h k).finish⟩
  | setCurrentTrack k => exact ⟨_, rfl, (setCurrentTrack_memoryInv h k).returns _⟩
  | gcrReadByte n => exact ⟨_, rfl, h.returns _⟩
  | gcrWriteByte n v => exact execGcrWriteByte_memoryInv h n v
  | getTrackInfo => exact ⟨_, rfl, h.returns _⟩
  | setSectorErrorCode n code => exact execSetSectorErrorCode_memoryInv h n code
  | getSectorErrorCode n => exact ⟨_, rfl, h.returns _⟩
  | closeD64 =>
    exact ⟨_, rfl, ((flushTrack_memoryInv h (-1)).setTbm (detached_buffersOk _ _)).returns _⟩
  | writeCommandRegister v => exact ⟨_, rfl, (writeCommand_memoryInv h v).returns _⟩
  | readStatusRegister => exact ⟨_, rfl, (h.setFdc_of_buf (by rfl)).returns _⟩
  | writeTrackRegister v => exact ⟨_, rfl, (h.setFdc_of_buf (by rfl)).returns _⟩
  | readTrackRegister => exact ⟨_, rfl, h.returns _⟩
  | writeSectorRegister v => exact ⟨_, rfl, (h.setFdc_of_buf (by rfl)).returns _⟩
  | readSectorRegister => exact ⟨_, rfl, h.returns _⟩
  | writeDataRegister v => exact ⟨_, rfl, writeData_memoryInv h v⟩
  | readDataRegister => exact ⟨_, rfl, readData_memoryInv h⟩
  | peekRegister a => exact ⟨_, rfl, h.returns _⟩
  | getHeadPosition => exact ⟨_, rfl, h.returns _⟩
  | getInterruptRequest => exact ⟨_, rfl, h.returns _⟩
  | getDataRequest => exact ⟨_, rfl, h.returns _⟩
  | setDiskImageFile file ro nt ns nn => exact ⟨_, rfl, (setDiskImageFile_memoryInv h file ro nt ns nn).finish⟩
  | setSide a => exact ⟨_, rfl, (h.setFdc_of_buf (by rfl)).returns _⟩
  | resetFdc => exact ⟨_, rfl, (h.setFdc (Memory.canonical_nil _)).returns _⟩
  | closeFdc =>
    have hend := endTransfer_memoryInv h
    exact ⟨_, rfl, (hend.setFdc_of_buf (by rfl)).returns _⟩
  | openTape a => exact ⟨_, rfl, openTape_memoryInv h a⟩
  | play => exact execPlay_memoryInv h
  | record => exact execRecord_memoryInv h
  | stop => exact execStop_memoryInv h
  | setIsMotorOn b => exact execSetIsMotorOn_memoryInv h b
  | runOneSample => exact execRunOneSample_memoryInv h
  | getInputSignal => exact execGetInputSignal_memoryInv h
  | setOutputSignal v => exact execSetOutputSignal_memoryInv h v
  | tapeSeek secs => exact execTapeSeek_memoryInv h secs
  | seekToCuePoint forward secs => exact execSeekToCuePoint_memoryInv h forward secs
  | addCuePoint => exact execAddCuePoint_memoryInv h
  | deleteNearestCuePoint => exact execDeleteNearestCuePoint_memoryInv h
  | deleteAllCuePoints => exact execDeleteAllCuePoints_memoryInv h
  | getTapeInfo => exact execGetTapeInfo_memoryInv h
  | closeTape => exact ⟨_, rfl, (closeTape_memoryInv h).returns _⟩

/-- Settles O58: a step is an instruction, and each instruction writes within the sizes. -/
theorem memoryInvariant : Obligations.MemoryInvariant := by
  intro s t htables hs hstep
  cases hcalls : s.calls with
  | nil =>
    rw [step_of_calls_nil hcalls] at hstep
    cases hstep
  | cons c rest =>
    cases hdec : decode c with
    | error e =>
      rw [step_of_decode_error hcalls hdec] at hstep
      cases hstep
    | ok i =>
      have htaken : MemoryInv { s with calls := rest } := memoryInv_iff.2 ⟨htables, hs⟩
      obtain ⟨u, hexec, hinv⟩ := exec_memoryInv i htaken
      rw [step_of_decode_ok hcalls hdec, hexec] at hstep
      cases hstep
      exact (memoryInv_iff.1 hinv).2

end Sys2Proof.Machine

/-! ### Samples packed into bytes

The samples of a byte have slots of `b` bits that do not overlap, in either order of packing (20_memory.md R90), so each
slot of a packed byte holds its own sample. -/

namespace Sys2Proof.Machine

theorem lowBits_getLsbD (r i : Nat) (v : Byte) : (lowBits r v).getLsbD i = (decide (i < r) && v.getLsbD i) := by
  rw [lowBits, BitVec.getLsbD_ofNat, Nat.testBit_mod_two_pow, BitVec.testBit_toNat]
  by_cases hi : i < 8
  · simp [hi]
  · simp [hi, BitVec.getLsbD_of_ge v i (Nat.le_of_not_lt hi)]

theorem getLsbD_eq_false_of_lt {v : Byte} {b i : Nat} (hv : v.toNat < 2 ^ b) (hi : b ≤ i) : v.getLsbD i = false := by
  rw [← BitVec.testBit_toNat]
  exact Nat.testBit_lt_two_pow (Nat.lt_of_lt_of_le hv (Nat.pow_le_pow_right (Nat.zero_lt_succ 1) hi))

/-- A bit of an OR is a bit of one of its parts. -/
theorem getLsbD_foldl_or (f : Nat → Byte) (ks : List Nat) (acc : Byte) (i : Nat) :
    (ks.foldl (fun acc k => acc ||| f k) acc).getLsbD i = (acc.getLsbD i || ks.any fun k => (f k).getLsbD i) := by
  induction ks generalizing acc with
  | nil => simp
  | cons k ks ih => rw [List.foldl_cons, ih, BitVec.getLsbD_or, List.any_cons, Bool.or_assoc]

theorem validBits_cases {b : Nat} (h : validBits b = true) : b = 1 ∨ b = 2 ∨ b = 4 ∨ b = 8 := by
  simpa [validBits, or_assoc] using h

/-! #### Slots -/

/-- A slot lies within its byte, and two slots of a byte are apart. -/
theorem sampleShift_apart {b : Nat} (h : validBits b = true) (p : SamplePacking) :
    ∀ k < 8 / b, sampleShift p b k + b ≤ 8
      ∧ ∀ l < 8 / b, l ≠ k → sampleShift p b k + b ≤ sampleShift p b l ∨ sampleShift p b l + b ≤ sampleShift p b k := by
  obtain rfl | rfl | rfl | rfl := validBits_cases h <;> cases p <;> decide

/-- The byte that holds the samples `a 0, a 1, …`. -/
def packByte (p : SamplePacking) (b : Nat) (a : Nat → Byte) : Byte :=
  (List.range (8 / b)).foldl (fun acc k => acc ||| a k <<< sampleShift p b k) 0

theorem packByte_getLsbD (p : SamplePacking) (b : Nat) (a : Nat → Byte) (i : Nat) :
    (packByte p b a).getLsbD i = (List.range (8 / b)).any fun k => (a k <<< sampleShift p b k).getLsbD i := by
  have hzero : (0 : Byte).getLsbD i = false := BitVec.getLsbD_zero
  rw [packByte, getLsbD_foldl_or, hzero, Bool.false_or]

/-- A slot of a packed byte holds its own sample. -/
theorem unpackSample_packByte {b : Nat} (h : validBits b = true) (p : SamplePacking) {a : Nat → Byte}
    (ha : ∀ k, (a k).toNat < 2 ^ b) {k : Nat} (hk : k < 8 / b) : unpackSample p b k (packByte p b a) = a k := by
  obtain ⟨hwithin, hapart⟩ := sampleShift_apart h p k hk
  refine BitVec.eq_of_getLsbD_eq fun i hi => ?_
  rw [unpackSample, lowBits_getLsbD, BitVec.getLsbD_ushiftRight, packByte_getLsbD]
  by_cases hib : i < b
  · have hother : ∀ l ∈ List.range (8 / b), l ≠ k →
        (a l <<< sampleShift p b l).getLsbD (sampleShift p b k + i) = false := by
      intro l hl hne
      rw [BitVec.getLsbD_shiftLeft]
      obtain hbelow | habove := hapart l (List.mem_range.1 hl) hne
      · simp [show sampleShift p b k + i < sampleShift p b l by omega]
      · rw [getLsbD_eq_false_of_lt (ha l) (by omega), Bool.and_false]
    have hown : (a k <<< sampleShift p b k).getLsbD (sampleShift p b k + i) = (a k).getLsbD i := by
      rw [BitVec.getLsbD_shiftLeft, Nat.add_sub_cancel_left]
      simp [show sampleShift p b k + i < 8 by omega]
    rw [Bool.eq_iff_iff]
    simp only [hib, decide_true, Bool.true_and, List.any_eq_true]
    constructor
    · rintro ⟨l, hl, hbit⟩
      by_cases hne : l = k
      · subst hne
        exact hown ▸ hbit
      · exact absurd ((hother l hl hne).symm.trans hbit) Bool.false_ne_true
    · exact fun hbit => ⟨k, List.mem_range.2 hk, hown.trans hbit⟩
  · rw [getLsbD_eq_false_of_lt (ha k) (Nat.le_of_not_lt hib)]
    simp [hib]

/-! #### A whole block -/

theorem packSamples_eq (p : SamplePacking) (b : Nat) (vs : List Byte) :
    packSamples p b vs
      = (List.range ((vs.length * b + 7) / 8)).map fun j => packByte p b fun k => vs.getD (j * (8 / b) + k) 0 := rfl

/-- The numbers below `m * n`, in `m` groups of `n`. -/
theorem flatMap_range_mul (m n : Nat) {α : Type} (f : Nat → α) :
    ((List.range m).flatMap fun j => (List.range n).map fun k => f (j * n + k)) = (List.range (m * n)).map f := by
  induction m with
  | zero => simp
  | succ m ih =>
    rw [List.range_succ, List.flatMap_append, ih, Nat.succ_mul, List.range_add, List.map_append, List.map_map]
    simp [Function.comp_def]

/-- Unpacked, the packed samples come back in order, the bytes filled up with 0. -/
theorem unpackBytes_packSamples {b : Nat} (h : validBits b = true) (p : SamplePacking) {vs : List Byte}
    (hvs : ∀ v ∈ vs, v.toNat < 2 ^ b) :
    unpackBytes p b (packSamples p b vs)
      = (List.range ((vs.length * b + 7) / 8 * (8 / b))).map fun i => vs.getD i 0 := by
  have hsample : ∀ i, (vs.getD i 0).toNat < 2 ^ b := by
    intro i
    rw [List.getD_eq_getElem?_getD]
    cases hi : vs[i]? with
    | none => exact Nat.two_pow_pos b
    | some v => exact hvs v (List.mem_of_getElem? hi)
  rw [packSamples_eq, unpackBytes, List.flatMap_map, ← flatMap_range_mul]
  refine List.flatMap_congr fun j _ => List.map_congr_left fun k hk => ?_
  exact unpackSample_packByte h p (fun k => hsample _) (List.mem_range.1 hk)

/-- The bytes have room for every sample. -/
theorem length_le_packed {b : Nat} (h : validBits b = true) (n : Nat) : n ≤ (n * b + 7) / 8 * (8 / b) := by
  obtain rfl | rfl | rfl | rfl := validBits_cases h <;> omega

/-- Settles O55: the unpacked samples are those packed and then zeros. -/
theorem packUnpack : Obligations.PackUnpack := by
  intro p b vs hb hvs
  refine ⟨by rw [packSamples_eq, List.length_map, List.length_range], ?_⟩
  rw [unpackBytes_packSamples hb p hvs, ← List.map_take, List.take_range, Nat.min_eq_left (length_le_packed hb _)]
  refine List.ext_getElem (by simp) fun i _ hi => ?_
  simp [hi]

end Sys2Proof.Machine

/-! ### Numbers and operands as bytes

The reader of an operand undoes its writer, for every value that fits its bytes, whatever bytes follow
(notes/assumptions/2.md). -/

namespace Sys2Proof

theorem beNat_append_singleton (bs : List Byte) (b : Byte) : beNat (bs ++ [b]) = beNat bs * 256 + b.toNat := by
  simp [beNat]

theorem beNat_beBytes (k n : Nat) : beNat (beBytes k n) = n % 256 ^ k := by
  induction k generalizing n with
  | zero => simp [beBytes, beNat, Nat.mod_one]
  | succ k ih =>
    rw [beBytes, beNat_append_singleton, ih, BitVec.toNat_ofNat, pow_succ' 256 k, Nat.mod_mul]
    omega

theorem beNat_beBytes_of_lt {k n : Nat} (h : n < 256 ^ k) : beNat (beBytes k n) = n := by
  rw [beNat_beBytes, Nat.mod_eq_of_lt h]

theorem takeNat_beBytes {k n : Nat} (h : n < 256 ^ k) (rest : List Byte) :
    takeNat k (beBytes k n ++ rest) = some (n, rest) := by
  have hlen : (beBytes k n).length = k := beBytes_length k n
  rw [takeNat, if_pos (by simp), List.take_left' hlen, List.drop_left' hlen, beNat_beBytes_of_lt h]

theorem takeNat_four {n : Nat} (h : fitsNat n) (rest : List Byte) : takeNat 4 (beBytes 4 n ++ rest) = some (n, rest) :=
  takeNat_beBytes h rest

/-- A two's complement number comes back from its bits. -/
theorem toInt_ofNat_toNat_ofInt {w : Nat} {t : Int} (h : -2 ^ (w - 1) ≤ t ∧ t < 2 ^ (w - 1)) (hw : 0 < w) :
    (BitVec.ofNat w (BitVec.ofInt w t).toNat).toInt = t := by
  rw [BitVec.ofNat_toNat, BitVec.setWidth_eq, BitVec.toInt_ofInt_eq_self hw h.1 h.2]

theorem takeInt_intBytes {t : Int} (h : fitsInt t) (rest : List Byte) : takeInt (intBytes t ++ rest) = some (t, rest) := by
  rw [takeInt, intBytes, takeNat_four (BitVec.isLt _)]
  exact congrArg (fun x => some (x, rest)) (toInt_ofNat_toNat_ofInt h (by decide))

theorem takeBool_boolByte (b : Bool) (rest : List Byte) : takeBool (boolByte b :: rest) = some (b, rest) := by
  cases b <;> rfl

theorem takeFile_fileBytes {file : Option Nat} (h : fitsNat (file.getD 0)) (rest : List Byte) :
    takeFile (fileBytes file ++ rest) = some (file, rest) := by
  rw [takeFile, fileBytes, List.cons_append, takeBool_boolByte]
  dsimp only
  rw [takeNat_four h]
  cases file <;> rfl

theorem takeSeconds_secondsBytes {t : Rat} (h : fitsSeconds t) (rest : List Byte) :
    takeSeconds (secondsBytes t ++ rest) = some (t, rest) := by
  obtain ⟨hlo, hhi, hden⟩ := h
  have hpos : 0 < t.den := t.den_pos
  rw [takeSeconds, secondsBytes, List.append_assoc, takeNat_beBytes (BitVec.isLt _)]
  dsimp only
  rw [takeNat_four (by omega)]
  dsimp only
  rw [toInt_ofNat_toNat_ofInt ⟨hlo, hhi⟩ (by decide), Nat.sub_add_cancel hpos, Rat.mkRat_self]

theorem takeFormat_formatByte (f : TapeFormat) (rest : List Byte) : takeFormat (formatByte f :: rest) = some (f, rest) := by
  cases f <;> rfl

theorem takeMode_modeByte (m : TapeMode) (rest : List Byte) : takeMode (modeByte m :: rest) = some (m, rest) := by
  cases m <;> rfl

theorem takeOpenArgs_openArgsBytes {a : OpenArgs} (h : a.wellFormed) : takeOpenArgs (openArgsBytes a) = some a := by
  obtain ⟨hstore, hreq, hrate, hbits, hchannel⟩ := h
  simp [takeOpenArgs, openArgsBytes, takeFormat_formatByte, takeNat_four hstore, takeMode_modeByte, takeNat_four hreq,
    takeNat_four hrate, takeNat_four hbits, takeNat_four hchannel, takeBool_boolByte]

/-! #### The last operand of a call -/

theorem takeNat_four_last {n : Nat} (h : fitsNat n) : takeNat 4 (beBytes 4 n) = some (n, []) := by
  simpa using takeNat_four h []

theorem takeInt_last {t : Int} (h : fitsInt t) : takeInt (intBytes t) = some (t, []) := by
  simpa using takeInt_intBytes h []

theorem takeSeconds_last {t : Rat} (h : fitsSeconds t) : takeSeconds (secondsBytes t) = some (t, []) := by
  simpa using takeSeconds_secondsBytes h []

/-! #### Operands by shape -/

theorem boolArg_boolByte (f : Bool → Instr) (b : Bool) : boolArg f [boolByte b] = some (f b) := by
  simp [boolArg, takeBool_boolByte]

theorem natArg_beBytes (f : Nat → Instr) {n : Nat} (h : fitsNat n) : natArg f (beBytes 4 n) = some (f n) := by
  simp [natArg, takeNat_four_last h]

theorem intArg_intBytes (f : Int → Instr) {t : Int} (h : fitsInt t) : intArg f (intBytes t) = some (f t) := by
  simp [intArg, takeInt_last h]

theorem natByteArgs_append (f : Nat → Byte → Instr) {n : Nat} (h : fitsNat n) (v : Byte) :
    natByteArgs f (beBytes 4 n ++ [v]) = some (f n v) := by
  simp [natByteArgs, takeNat_four h, takeByte]

theorem trackArgs_append (f : Byte → Nat → Nat → Instr) (t : Byte) {n m : Nat} (h : fitsNat n ∧ fitsNat m) :
    trackArgs f (t :: beBytes 4 n ++ beBytes 4 m) = some (f t n m) := by
  simp [trackArgs, takeByte, takeNat_four h.1, takeNat_four_last h.2]

theorem imageArgs_append {file : Option Nat} (h : fitsNat (file.getD 0)) (readOnly : Bool) :
    imageArgs (fileBytes file ++ [boolByte readOnly]) = some (.setImageFile file readOnly) := by
  simp [imageArgs, takeFile_fileBytes h, takeBool_boolByte]

theorem diskImageArgs_append {file : Option Nat} {t s n : Nat}
    (h : fitsNat (file.getD 0) ∧ fitsNat t ∧ fitsNat s ∧ fitsNat n) (readOnly : Bool) :
    diskImageArgs (fileBytes file ++ [boolByte readOnly] ++ beBytes 4 t ++ beBytes 4 s ++ beBytes 4 n)
      = some (.setDiskImageFile file readOnly t s n) := by
  obtain ⟨hfile, ht, hs, hn⟩ := h
  simp [diskImageArgs, takeFile_fileBytes hfile, takeBool_boolByte, takeNat_four ht, takeNat_four hs, takeNat_four_last hn]

theorem openTapeArgs_openArgsBytes {a : OpenArgs} (h : a.wellFormed) :
    openTapeArgs (openArgsBytes a) = some (.openTape a) := by
  simp [openTapeArgs, takeOpenArgs_openArgsBytes h]

theorem secondsArg_secondsBytes {t : Rat} (h : fitsSeconds t) : secondsArg (secondsBytes t) = some (.tapeSeek t) := by
  simp [secondsArg, takeSeconds_last h]

theorem cueSeekArgs_cons (forward : Bool) {t : Rat} (h : fitsSeconds t) :
    cueSeekArgs (boolByte forward :: secondsBytes t) = some (.seekToCuePoint forward t) := by
  simp [cueSeekArgs, takeBool_boolByte, takeSeconds_last h]

end Sys2Proof

/-! ### Command bytes (30_encoding.md R140 to R145)

Each row's byte is read as that row with its operands, and each byte is the byte of the row it is read as. -/

namespace Sys2Proof

theorem decode_commandCall (c : Byte) : decode (commandCall c) = .ok (decodeCommand c) := rfl

/-! #### From the operands to the byte and back -/

theorem decodeCommand_restoreByte : ∀ h v r, decodeCommand (restoreByte h v r) = .restore h v r := by decide

theorem decodeCommand_seekByte : ∀ h v r, decodeCommand (seekByte h v r) = .seek h v r := by decide

theorem decodeCommand_stepByte : ∀ u h v r, decodeCommand (stepByte u h v r) = .step u h v r := by decide

theorem decodeCommand_stepInByte : ∀ u h v r, decodeCommand (stepInByte u h v r) = .stepIn u h v r := by decide

theorem decodeCommand_stepOutByte : ∀ u h v r, decodeCommand (stepOutByte u h v r) = .stepOut u h v r := by decide

theorem decodeCommand_rdsecByte : ∀ m hs e pc b0, decodeCommand (rdsecByte m hs e pc b0) = .rdsec m hs e pc b0 := by decide

theorem decodeCommand_wrsecByte : ∀ m hs e pc a0, decodeCommand (wrsecByte m hs e pc a0) = .wrsec m hs e pc a0 := by decide

theorem decodeCommand_rdaddrByte : ∀ hs e b1 b0, decodeCommand (rdaddrByte hs e b1 b0) = .rdaddr hs e b1 b0 := by decide

theorem decodeCommand_forceintByte : ∀ i3 i2 i1 i0, decodeCommand (forceintByte i3 i2 i1 i0) = .forceint i3 i2 i1 i0 := by
  decide

theorem decodeCommand_rdtrkByte : ∀ hs e b1 b0, decodeCommand (rdtrkByte hs e b1 b0) = .rdtrk hs e b1 b0 := by decide

theorem decodeCommand_wrtrkByte : ∀ hs e p b0, decodeCommand (wrtrkByte hs e p b0) = .wrtrk hs e p b0 := by decide

/-! #### From the byte to the operands and back -/

theorem commandByte_of_bits (c : Byte) :
    commandByte (c &&& 0xF0#8) (c.getLsbD 3) (c.getLsbD 2) (c.getLsbD 1) (c.getLsbD 0) = c := by
  decide +revert

theorem and_or_bitAt_four (c : Byte) : c &&& 0xE0#8 ||| bitAt (c.getLsbD 4) 4 = c &&& 0xF0#8 := by decide +revert

/-- A row that matches on the high four bits. -/
theorem commandByte_of_match_four {c m : Byte} (h : c &&& 0xF0#8 = m) :
    commandByte m (c.getLsbD 3) (c.getLsbD 2) (c.getLsbD 1) (c.getLsbD 0) = c := by
  rw [← h, commandByte_of_bits]

/-- A row that matches on the high three bits, bit 4 an operand. -/
theorem commandByte_of_match_three {c m : Byte} (h : c &&& 0xE0#8 = m) :
    commandByte (m ||| bitAt (c.getLsbD 4) 4) (c.getLsbD 3) (c.getLsbD 2) (c.getLsbD 1) (c.getLsbD 0) = c := by
  rw [← h, and_or_bitAt_four, commandByte_of_bits]

theorem getLsbD_stepRate (c : Byte) {k : Nat} (h : k < 2) : (c.extractLsb' 0 2).getLsbD k = c.getLsbD k := by
  simp [h]

/-- As `commandByte_of_match_four`, with the low two bits taken as a step rate (30_encoding.md R141). -/
theorem commandByte_stepRate_of_match_four {c m : Byte} (h : c &&& 0xF0#8 = m) :
    commandByte m (c.getLsbD 3) (c.getLsbD 2) ((c.extractLsb' 0 2).getLsbD 1) ((c.extractLsb' 0 2).getLsbD 0) = c := by
  rw [getLsbD_stepRate c one_lt_two, getLsbD_stepRate c two_pos, commandByte_of_match_four h]

/-- As `commandByte_of_match_three`, with the low two bits taken as a step rate (30_encoding.md R141). -/
theorem commandByte_stepRate_of_match_three {c m : Byte} (h : c &&& 0xE0#8 = m) :
    commandByte (m ||| bitAt (c.getLsbD 4) 4) (c.getLsbD 3) (c.getLsbD 2) ((c.extractLsb' 0 2).getLsbD 1)
      ((c.extractLsb' 0 2).getLsbD 0) = c := by
  rw [getLsbD_stepRate c one_lt_two, getLsbD_stepRate c two_pos, commandByte_of_match_three h]

/-- Every byte meets a match value of the tables, on its high three bits or on its high four (30_encoding.md R145). -/
theorem command_match (c : Byte) :
    c &&& 0xE0#8 ∈ [0x20#8, 0x40#8, 0x60#8, 0x80#8, 0xA0#8]
      ∨ c &&& 0xF0#8 ∈ [0x00#8, 0x10#8, 0xC0#8, 0xD0#8, 0xE0#8, 0xF0#8] := by
  decide +revert

theorem encode_decodeCommand (c : Byte) : encode (decodeCommand c) = commandCall c := by
  fun_cases decodeCommand c with
  | case1 b r hrestore => exact congrArg commandCall (commandByte_stepRate_of_match_four hrestore)
  | case2 b r _ hseek => exact congrArg commandCall (commandByte_stepRate_of_match_four hseek)
  | case3 b r _ _ hstep => exact congrArg commandCall (commandByte_stepRate_of_match_three hstep)
  | case4 b r _ _ _ hstepIn => exact congrArg commandCall (commandByte_stepRate_of_match_three hstepIn)
  | case5 b r _ _ _ _ hstepOut => exact congrArg commandCall (commandByte_stepRate_of_match_three hstepOut)
  | case6 b _ _ _ _ _ hrdsec => exact congrArg commandCall (commandByte_of_match_three hrdsec)
  | case7 b _ _ _ _ _ _ hwrsec => exact congrArg commandCall (commandByte_of_match_three hwrsec)
  | case8 b _ _ _ _ _ _ _ hrdaddr => exact congrArg commandCall (commandByte_of_match_four hrdaddr)
  | case9 b _ _ _ _ _ _ _ _ hforceint => exact congrArg commandCall (commandByte_of_match_four hforceint)
  | case10 b _ _ _ _ _ _ _ _ _ hrdtrk => exact congrArg commandCall (commandByte_of_match_four hrdtrk)
  | case11 b hrestore hseek hstep hstepIn hstepOut hrdsec hwrsec hrdaddr hforceint hrdtrk =>
    have hwrtrk : c &&& 0xF0#8 = 0xF0#8 := by
      simpa [hrestore, hseek, hstep, hstepIn, hstepOut, hrdsec, hwrsec, hrdaddr, hforceint, hrdtrk] using command_match c
    exact congrArg commandCall (commandByte_of_match_four hwrtrk)

end Sys2Proof

/-! ### Operation ids (30_encoding.md R170) and the decoder as a whole -/

namespace Sys2Proof

theorem decode_opCall {id : Byte} {args : List Byte} {reader : List Byte → Option Instr} {i : Instr}
    (hid : hostOpTable.lookup id = some reader) (hargs : reader args = some i) : decode (opCall id args) = .ok i := by
  simp only [opCall, decode, decodeHostOp, hid, hargs]

theorem decode_hostOp_of_lookup_eq_none {id : Byte} (h : hostOpTable.lookup id = none) (args : List Byte) :
    decode ⟨.hostOp, id :: args⟩ = .error (.unknownOperation id) := by
  simp only [decode, decodeHostOp, h]

/-- The ranges of ids that 30_encoding.md R170 lists. -/
def ListedId (id : Byte) : Prop :=
  1 ≤ id.toNat ∧ id.toNat ≤ 4 ∨ 0x10 ≤ id.toNat ∧ id.toNat ≤ 0x19 ∨ 0x20 ≤ id.toNat ∧ id.toNat ≤ 0x3E

theorem listedId_of_mem_hostOpTable : ∀ p ∈ hostOpTable, ListedId p.1 := by
  unfold ListedId
  decide

theorem hostOpTable_lookup_eq_none {id : Byte} (h : ¬ ListedId id) : hostOpTable.lookup id = none := by
  rw [List.lookup_eq_none_iff]
  intro p hp
  rw [bne_iff_ne]
  rintro rfl
  exact h (listedId_of_mem_hostOpTable p hp)

theorem extractLsb'_setWidth_two (a : BitVec 2) : (a.setWidth 8).extractLsb' 0 2 = a := by decide +revert

/-- Settles O1: a command byte by its row, a port access by evaluation, a host operation by its id's reader, which undoes the
writer of the operands. -/
theorem decodeEncode : Obligations.DecodeEncode := by
  intro i hwf
  cases i with
  | restore h v r => exact congrArg _ (decodeCommand_restoreByte h v r)
  | seek h v r => exact congrArg _ (decodeCommand_seekByte h v r)
  | step u h v r => exact congrArg _ (decodeCommand_stepByte u h v r)
  | stepIn u h v r => exact congrArg _ (decodeCommand_stepInByte u h v r)
  | stepOut u h v r => exact congrArg _ (decodeCommand_stepOutByte u h v r)
  | rdsec m hs e pc b0 => exact congrArg _ (decodeCommand_rdsecByte m hs e pc b0)
  | wrsec m hs e pc a0 => exact congrArg _ (decodeCommand_wrsecByte m hs e pc a0)
  | rdaddr hs e b1 b0 => exact congrArg _ (decodeCommand_rdaddrByte hs e b1 b0)
  | forceint i3 i2 i1 i0 => exact congrArg _ (decodeCommand_forceintByte i3 i2 i1 i0)
  | rdtrk hs e b1 b0 => exact congrArg _ (decodeCommand_rdtrkByte hs e b1 b0)
  | wrtrk hs e p b0 => exact congrArg _ (decodeCommand_wrtrkByte hs e p b0)
  | st | rtr | rsr | rdr => rfl
  | cmd v | wtr v | wsr v | wdr v => rfl
  | gcrEncodeFourBytes b0 b1 b2 b3 => exact decode_opCall rfl rfl
  | gcrDecodeFourBytes g0 g1 g2 g3 g4 => exact decode_opCall rfl rfl
  | gcrEncodeTrack t n m | gcrDecodeTrack t n m => exact decode_opCall rfl (trackArgs_append _ t (of_decide_eq_true hwf))
  | setImageFile file readOnly => exact decode_opCall rfl (imageArgs_append (of_decide_eq_true hwf) readOnly)
  | readTrack t | flushTrack t | setCurrentTrack t => exact decode_opCall rfl (intArg_intBytes _ (of_decide_eq_true hwf))
  | gcrReadByte n | getSectorErrorCode n => exact decode_opCall rfl (natArg_beBytes _ (of_decide_eq_true hwf))
  | gcrWriteByte n v | setSectorErrorCode n v => exact decode_opCall rfl (natByteArgs_append _ (of_decide_eq_true hwf) v)
  | getTrackInfo | closeD64 => exact decode_opCall rfl rfl
  | writeCommandRegister v | writeTrackRegister v | writeSectorRegister v | writeDataRegister v | setSide v =>
    exact decode_opCall rfl rfl
  | readStatusRegister | readTrackRegister | readSectorRegister | readDataRegister => exact decode_opCall rfl rfl
  | peekRegister a => exact decode_opCall rfl (congrArg (fun b => some (Instr.peekRegister b)) (extractLsb'_setWidth_two a))
  | getHeadPosition | getInterruptRequest | getDataRequest | resetFdc | closeFdc => exact decode_opCall rfl rfl
  | setDiskImageFile file readOnly t h n =>
    exact decode_opCall rfl (diskImageArgs_append (of_decide_eq_true hwf) readOnly)
  | openTape a => exact decode_opCall rfl (openTapeArgs_openArgsBytes (of_decide_eq_true hwf))
  | play | record | stop | runOneSample | getInputSignal => exact decode_opCall rfl rfl
  | setIsMotorOn b => exact decode_opCall rfl (boolArg_boolByte _ b)
  | setOutputSignal v => exact decode_opCall rfl rfl
  | tapeSeek t => exact decode_opCall rfl (secondsArg_secondsBytes (of_decide_eq_true hwf))
  | seekToCuePoint forward t => exact decode_opCall rfl (cueSeekArgs_cons forward (of_decide_eq_true hwf))
  | addCuePoint | deleteNearestCuePoint | deleteAllCuePoints | getTapeInfo | closeTape => exact decode_opCall rfl rfl

/-- Settles O2: the words by evaluation, and the byte `c` by the instruction it is read as. -/
theorem decodeSpecWords : Obligations.DecodeSpecWords :=
  ⟨⟨by decide, by decide, by decide, rfl, rfl, rfl, by decide, by decide⟩,
    fun c => ⟨decodeCommand c, decode_commandCall c, encode_decodeCommand c⟩⟩

end Sys2Proof

namespace Sys2Proof.Machine

/-- Settles O3: an id in the gaps is no key of the table. -/
theorem unknownOperationRefused : Obligations.UnknownOperationRefused := by
  intro id args rest s hgap hcalls
  have hunlisted : ¬ ListedId id := by
    unfold ListedId
    omega
  exact step_of_decode_error hcalls (decode_hostOp_of_lookup_eq_none (hostOpTable_lookup_eq_none hunlisted) args)

end Sys2Proof.Machine

/-! ### No sync in encoded data (30_encoding.md R122)

No symbol of the code is 11111, and every byte of a group but its third covers a whole symbol. So 0xFF stands only at the
third place of a group, and two of them are never neighbours. -/

namespace Sys2Proof.Machine

theorem gcrSymbol_ne_ones (n : BitVec 4) : gcrSymbol n ≠ 0x1F := by decide +revert

theorem extractLsb'_extractLsb'_of_le {w n b m : Nat} (x : BitVec w) (a : Nat) (h : b + m ≤ n) :
    (x.extractLsb' a n).extractLsb' b m = x.extractLsb' (a + b) m := by
  ext i hi
  simp [show b + i < n by omega, Nat.add_assoc]

theorem extractLsb'_FF : ∀ b < 4, (0xFF : Byte).extractLsb' b 5 = 0x1F := by decide

/-- A byte that covers a whole symbol is not 0xFF. -/
theorem byte_ne_FF_of_symbol {w : BitVec 40} (a b : Nat) {n : BitVec 4} (hsymbol : w.extractLsb' (a + b) 5 = gcrSymbol n)
    (hb : b < 4) : w.extractLsb' a 8 ≠ 0xFF := by
  intro hbyte
  rw [← extractLsb'_extractLsb'_of_le w a (show b + 5 ≤ 8 by omega), hbyte, extractLsb'_FF b hb] at hsymbol
  exact gcrSymbol_ne_ones n hsymbol.symm

/-- Symbols 0, 2, 5 and 7 of a group, each in its place of the 40 bits. -/
theorem extractLsb'_symbols (y0 y1 y2 y3 y4 y5 y6 y7 : BitVec 5) :
    let w : BitVec 40 := (y0 ++ y1) ++ (y2 ++ y3) ++ (y4 ++ y5) ++ (y6 ++ y7)
    w.extractLsb' 35 5 = y0 ∧ w.extractLsb' 25 5 = y2 ∧ w.extractLsb' 10 5 = y5 ∧ w.extractLsb' 0 5 = y7 := by
  refine ⟨?_, ?_, ?_, ?_⟩ <;>
    simp (disch := decide) only [BitVec.extractLsb'_append_eq_of_add_le, BitVec.extractLsb'_append_eq_of_le,
      Nat.sub_self, BitVec.extractLsb'_eq_self]

theorem place_of_encodeFour_eq_FF {b0 b1 b2 b3 : Byte} {j : Nat} (h : (encodeFour b0 b1 b2 b3).getD j 0 = 0xFF) :
    j = 2 := by
  obtain ⟨h35, h25, h10, h0⟩ := extractLsb'_symbols (gcrSymbol (b0.extractLsb' 4 4)) (gcrSymbol (b0.extractLsb' 0 4))
    (gcrSymbol (b1.extractLsb' 4 4)) (gcrSymbol (b1.extractLsb' 0 4)) (gcrSymbol (b2.extractLsb' 4 4))
    (gcrSymbol (b2.extractLsb' 0 4)) (gcrSymbol (b3.extractLsb' 4 4)) (gcrSymbol (b3.extractLsb' 0 4))
  match j with
  | 0 => exact absurd h (byte_ne_FF_of_symbol 32 3 h35 (by decide))
  | 1 => exact absurd h (byte_ne_FF_of_symbol 24 1 h25 (by decide))
  | 2 => rfl
  | 3 => exact absurd h (byte_ne_FF_of_symbol 8 2 h10 (by decide))
  | 4 => exact absurd h (byte_ne_FF_of_symbol 0 0 h0 (by decide))
  | j + 5 => exact absurd h (by simp [encodeFour, groupBytes])

theorem place_of_encodeGroups_eq_FF {bs : List Byte} {i : Nat} (h : (encodeGroups bs).getD i 0 = 0xFF) : i % 5 = 2 := by
  induction bs using encodeGroups.induct generalizing i with
  | case1 b0 b1 b2 b3 rest ih =>
    have hlen : (encodeFour b0 b1 b2 b3).length = 5 := rfl
    rw [encodeGroups] at h
    by_cases hi : i < 5
    · rw [List.getD_append _ _ _ _ (by omega)] at h
      rw [place_of_encodeFour_eq_FF h]
    · rw [List.getD_append_right _ _ _ _ (by omega), hlen] at h
      have hplace : (i - 5) % 5 = 2 := ih h
      omega
  | case2 bs hshort =>
    unfold encodeGroups at h
    split at h
    · exact absurd rfl (hshort _ _ _ _ _)
    · simp at h

/-- Settles O11: two neighbours cannot both stand at the third place of a group. -/
theorem noSyncInData : Obligations.NoSyncInData := by
  rintro bs i - ⟨hfirst, hsecond⟩
  have hplace := place_of_encodeGroups_eq_FF hfirst
  have hnext := place_of_encodeGroups_eq_FF hsecond
  omega

end Sys2Proof.Machine

/-! ### The Native header read back (30_encoding.md R160, R161) -/

namespace Sys2Proof.Machine

theorem slotBytes_length {cues : List Nat} (h : cues.length ≤ 1020) : (slotBytes cues).length = 4080 := by
  simp [slotBytes, List.length_flatMap]
  omega

theorem slotValues_flatMap_beBytes {cs : List Nat} (h : ∀ c ∈ cs, c < 2 ^ 32) :
    slotValues (cs.flatMap (beBytes 4)) = cs := by
  induction cs with
  | nil => rfl
  | cons c cs ih =>
    obtain ⟨hc, hcs⟩ := List.forall_mem_cons.1 h
    have hslot : slotValues (beBytes 4 c ++ cs.flatMap (beBytes 4))
        = beNat (beBytes 4 c) :: slotValues (cs.flatMap (beBytes 4)) := rfl
    rw [List.flatMap_cons, hslot, beNat_beBytes_of_lt hc, ih hcs]

theorem keepAscending_some_of_pairwise {m : Nat} {cs : List Nat} (h : (m :: cs).Pairwise (fun a b => a < b)) :
    keepAscending (some m) cs = cs := by
  induction cs generalizing m with
  | nil => rfl
  | cons c cs ih =>
    obtain ⟨hm, hcs⟩ := List.pairwise_cons.1 h
    rw [keepAscending, if_pos (hm c List.mem_cons_self), ih hcs]

theorem keepAscending_none_of_pairwise {cs : List Nat} (h : cs.Pairwise (fun a b => a < b)) :
    keepAscending none cs = cs := by
  cases cs with
  | nil => rfl
  | cons c cs => rw [keepAscending, keepAscending_some_of_pairwise h]

/-- The cue points end at the first sentinel, since none of them is one, and the ascending filter keeps them all. -/
theorem readCueSlots_slotBytes {cues : List Nat} (h : CuesOk cues) : readCueSlots (slotBytes cues) = cues := by
  obtain ⟨hasc, hcap, hlt⟩ := h
  have hslots : ∀ c ∈ cues ++ List.replicate (1020 - cues.length) cueSentinel, c < 2 ^ 32 := by
    intro c hc
    obtain hc | hc := List.mem_append.1 hc
    · exact Nat.lt_trans (hlt c hc) (by decide)
    · rw [List.eq_of_mem_replicate hc]
      decide
  have hne : ∀ c ∈ cues, (c != cueSentinel) = true := fun c hc => bne_iff_ne.2 (Nat.ne_of_lt (hlt c hc))
  rw [readCueSlots, slotBytes, slotValues_flatMap_beBytes hslots, List.takeWhile_append_of_pos hne,
    List.takeWhile_replicate_eq_filter, List.filter_replicate_of_neg (by simp), List.append_nil,
    List.take_of_length_le hcap, keepAscending_none_of_pairwise hasc]

theorem be32_append {before : List Byte} {n off : Nat} (hoff : before.length = off) (hn : n < 2 ^ 32) (rest : List Byte) :
    be32 (before ++ beBytes 4 n ++ rest) off = n := by
  rw [be32, List.append_assoc, List.drop_left' hoff, List.take_left' (beBytes_length 4 n), beNat_beBytes_of_lt hn]

/-- Settles O54: each field is read where it was written. -/
theorem nativeHeaderRoundTrip : Obligations.NativeHeaderRoundTrip := by
  intro fileBits rate cues hbits hpos hrate hasc hcap hlt
  have hbitsLt : fileBits < 2 ^ 32 := by
    obtain rfl | rfl | rfl | rfl := validBits_cases hbits <;> decide
  have hmagicLen : tapeMagic.length = 8 := rfl
  constructor
  · simp [nativeHeader, slotBytes_length (show cues.length ≤ 1020 by omega), hmagicLen]
  · have hmagicField : (nativeHeader fileBits rate cues).take 8 = tapeMagic := rfl
    have hbitsField : be32 (nativeHeader fileBits rate cues) 8 = fileBits := by
      rw [nativeHeader, List.append_assoc]
      exact be32_append hmagicLen hbitsLt _
    have hrateField : be32 (nativeHeader fileBits rate cues) 12 = rate := be32_append (by simp [hmagicLen]) hrate _
    have hslotsField : (nativeHeader fileBits rate cues).drop 16 = slotBytes cues := List.drop_left' (by simp [hmagicLen])
    rw [parseNativeHeader, hmagicField, hbitsField, hrateField, hslotsField, if_pos ⟨rfl, hbits, Nat.ne_of_gt hpos⟩,
      readCueSlots_slotBytes ⟨hasc, hcap, hlt⟩]

end Sys2Proof.Machine

/-! ### The four-byte codec (40_gcr_codec.md R200 to R202) -/

namespace Sys2Proof.Machine

/-! #### What the four operations answer -/

theorem exec_gcrEncodeFourBytes (b0 b1 b2 b3 : Byte) (s : State) :
    exec (.gcrEncodeFourBytes b0 b1 b2 b3) s = .next (s.returns (.bytes (encodeFour b0 b1 b2 b3))) := rfl

theorem exec_gcrDecodeFourBytes (g0 g1 g2 g3 g4 : Byte) (s : State) :
    exec (.gcrDecodeFourBytes g0 g1 g2 g3 g4) s
      = .next (s.returns (.decoded (decodeFive g0 g1 g2 g3 g4).1 (decodeFive g0 g1 g2 g3 g4).2)) := rfl

theorem exec_gcrEncodeTrack (trackNum : Byte) (nSectors nBytes : Nat) (s : State) :
    exec (.gcrEncodeTrack trackNum nSectors nBytes) s
      = .next ((s.setTbm (encodeTrack s.params trackNum nSectors nBytes s.tbm)).returns .none) := rfl

theorem exec_gcrDecodeTrack (trackNum : Byte) (nSectors nBytes : Nat) (s : State) :
    exec (.gcrDecodeTrack trackNum nSectors nBytes) s
      = .next ((s.setTbm (decodeTrack trackNum nSectors nBytes s.tbm).2).returns
          (.count (decodeTrack trackNum nSectors nBytes s.tbm).1)) := rfl

theorem trackDomain_iff {nSectors nBytes : Nat} :
    trackDomain nSectors nBytes = true ↔ nSectors ≤ 21 ∧ nBytes ≤ 8192 := by
  rw [trackDomain, Bool.and_eq_true, decide_eq_true_eq, decide_eq_true_eq, gcrBufCap]

/-- Settles O14: outside the domain both operations keep the track buffer. -/
theorem gcrTrackRefused : Obligations.GcrTrackRefused := by
  intro trackNum nSectors nBytes s houtside
  have hdomain : ¬ trackDomain nSectors nBytes = true := by
    rw [trackDomain_iff]
    omega
  constructor
  · rw [exec_gcrEncodeTrack, encodeTrack, if_neg hdomain]
    rfl
  · rw [exec_gcrDecodeTrack, decodeTrack, if_neg hdomain]
    rfl

/-! #### Symbols -/

theorem gcrNibble_gcrSymbol (n : BitVec 4) : gcrNibble (gcrSymbol n) = (n, true) := by decide +revert

/-- A symbol's nibble through the decode table: 0 where the table has 0xFF. -/
theorem gcrNibble_fst_setWidth (y : BitVec 5) :
    (gcrNibble y).1.setWidth 8
      = if gcrDecodeTable.getD y.toNat 0xFF ≥ 0x80 then 0 else gcrDecodeTable.getD y.toNat 0xFF := by
  decide +revert

theorem gcrNibble_snd (y : BitVec 5) : (gcrNibble y).2 = decide (gcrDecodeTable.getD y.toNat 0xFF < 0x80) := by
  decide +revert

theorem nibble_append_eq_or (hi lo : BitVec 4) : hi ++ lo = (hi.setWidth 8 <<< 4) ||| (lo.setWidth 8 &&& 0x0F) := by
  decide +revert

/-- The two symbols of 10 bits that stand at bit `a` of a group. -/
theorem decodeSymbols_extractLsb' (w : BitVec 40) (a : Nat) :
    decodeSymbols (w.extractLsb' a 10)
      = ((gcrNibble (w.extractLsb' (a + 5) 5)).1 ++ (gcrNibble (w.extractLsb' a 5)).1,
          (gcrNibble (w.extractLsb' (a + 5) 5)).2 && (gcrNibble (w.extractLsb' a 5)).2) := by
  rw [decodeSymbols, extractLsb'_extractLsb'_of_le w a (by decide), extractLsb'_extractLsb'_of_le w a (by decide)]
  rfl

theorem nibbles_append (b : Byte) : b.extractLsb' 4 4 ++ b.extractLsb' 0 4 = b := by decide +revert

theorem decodeSymbols_gcrByte (b : Byte) : decodeSymbols (gcrByte b) = (b, true) := by
  have hhi : (gcrByte b).extractLsb' 5 5 = gcrSymbol (b.extractLsb' 4 4) := by
    rw [gcrByte, BitVec.extractLsb'_append_eq_of_le (Nat.le_refl 5), Nat.sub_self, BitVec.extractLsb'_eq_self]
  have hlo : (gcrByte b).extractLsb' 0 5 = gcrSymbol (b.extractLsb' 0 4) := by
    rw [gcrByte, BitVec.extractLsb'_append_eq_of_add_le (by decide), BitVec.extractLsb'_eq_self]
  rw [decodeSymbols, hhi, hlo, gcrNibble_gcrSymbol, gcrNibble_gcrSymbol]
  exact Prod.ext (nibbles_append b) rfl

/-! #### Groups -/

/-- Ten bits shifted into a group, as R200 builds its value. -/
theorem shiftIn_symbols {n : Nat} (u : BitVec n) (hi lo : BitVec 5) :
    (u.setWidth 40 <<< 10) ||| (hi.setWidth 40 <<< 5) ||| lo.setWidth 40 = (u ++ (hi ++ lo)).setWidth 40 := by
  ext i hi'
  simp only [BitVec.getElem_or, BitVec.getElem_shiftLeft, BitVec.getElem_setWidth, BitVec.getLsbD_append]
  by_cases h5 : i < 5
  · simp [h5, show i < 10 by omega]
  · by_cases h10 : i < 10
    · simp [h5, h10, BitVec.getLsbD_of_ge lo i (by omega)]
    · simp [h5, h10, BitVec.getLsbD_of_ge lo i (by omega), BitVec.getLsbD_of_ge hi (i - 5) (by omega)]

theorem foldl_shiftIn_symbols (b0 b1 b2 b3 : Byte) :
    [b0, b1, b2, b3].foldl
        (fun (w : BitVec 40) (b : Byte) => (w <<< 10) ||| ((gcrSymbol (b.extractLsb' 4 4)).setWidth 40 <<< 5)
          ||| (gcrSymbol (b.extractLsb' 0 4)).setWidth 40) 0
      = gcrByte b0 ++ gcrByte b1 ++ gcrByte b2 ++ gcrByte b3 := by
  have hfirst : ∀ hi lo : BitVec 5,
      ((0 : BitVec 40) <<< 10) ||| (hi.setWidth 40 <<< 5) ||| lo.setWidth 40 = (hi ++ lo).setWidth 40 := by
    intro hi lo
    have h := shiftIn_symbols 0#0 hi lo
    rwa [BitVec.zero_width_append, BitVec.setWidth_cast] at h
  simp only [List.foldl_cons, List.foldl_nil]
  rw [hfirst, shiftIn_symbols, shiftIn_symbols, shiftIn_symbols]
  exact BitVec.setWidth_eq _

/-- The five bytes of a group put together again. -/
theorem append_groupBytes (w : BitVec 40) :
    (w.extractLsb' 32 8 ++ w.extractLsb' 24 8 ++ w.extractLsb' 16 8 ++ w.extractLsb' 8 8 ++ w.extractLsb' 0 8 : BitVec 40)
      = w := by
  rw [BitVec.extractLsb'_append_extractLsb'_eq_extractLsb' (show 32 = 24 + 8 from rfl),
    BitVec.extractLsb'_append_extractLsb'_eq_extractLsb' (show 24 = 16 + 8 from rfl),
    BitVec.extractLsb'_append_extractLsb'_eq_extractLsb' (show 16 = 8 + 8 from rfl),
    BitVec.extractLsb'_append_extractLsb'_eq_extractLsb' (show 8 = 0 + 8 from rfl)]
  exact BitVec.extractLsb'_eq_self

/-- The four ten-bit parts of a group, each in its place of the 40 bits. -/
theorem extractLsb'_group (y0 y1 y2 y3 : BitVec 10) :
    let w : BitVec 40 := y0 ++ y1 ++ y2 ++ y3
    w.extractLsb' 30 10 = y0 ∧ w.extractLsb' 20 10 = y1 ∧ w.extractLsb' 10 10 = y2 ∧ w.extractLsb' 0 10 = y3 := by
  refine ⟨?_, ?_, ?_, ?_⟩ <;>
    simp (disch := decide) only [BitVec.extractLsb'_append_eq_of_add_le, BitVec.extractLsb'_append_eq_of_le,
      Nat.sub_self, BitVec.extractLsb'_eq_self]

/-- The decoding of the 40 bits of a group (40_gcr_codec.md R201). -/
def decodeGroup (w : BitVec 40) : List Byte × Bool :=
  ([(decodeSymbols (w.extractLsb' 30 10)).1, (decodeSymbols (w.extractLsb' 20 10)).1,
      (decodeSymbols (w.extractLsb' 10 10)).1, (decodeSymbols (w.extractLsb' 0 10)).1],
    (decodeSymbols (w.extractLsb' 30 10)).2 && (decodeSymbols (w.extractLsb' 20 10)).2
      && (decodeSymbols (w.extractLsb' 10 10)).2 && (decodeSymbols (w.extractLsb' 0 10)).2)

theorem decodeFive_eq (g0 g1 g2 g3 g4 : Byte) : decodeFive g0 g1 g2 g3 g4 = decodeGroup (g0 ++ g1 ++ g2 ++ g3 ++ g4) := rfl

theorem decodeFive_of_groupBytes {w : BitVec 40} {g0 g1 g2 g3 g4 : Byte} (h : groupBytes w = [g0, g1, g2, g3, g4]) :
    decodeFive g0 g1 g2 g3 g4 = decodeGroup w := by
  simp only [groupBytes, List.cons.injEq, and_true] at h
  obtain ⟨rfl, rfl, rfl, rfl, rfl⟩ := h
  rw [decodeFive_eq, append_groupBytes]

/-- Settles O9: the value R200 shifts together is the eight symbols side by side, and each symbol is read through the
table. -/
theorem gcrFourBytes : Obligations.GcrFourBytes := by
  constructor
  · intro b0 b1 b2 b3 s sym w
    have hw : w = gcrByte b0 ++ gcrByte b1 ++ gcrByte b2 ++ gcrByte b3 := foldl_shiftIn_symbols b0 b1 b2 b3
    rw [hw]
    rfl
  · intro g0 g1 g2 g3 g4 s w dec nib
    have hpair : ∀ a j k, 35 - 5 * j = a + 5 → 35 - 5 * k = a → decodeSymbols (w.extractLsb' a 10)
        = ((nib j <<< 4) ||| (nib k &&& 0x0F), decide (dec j < 0x80) && decide (dec k < 0x80)) := by
      intro a j k hj hk
      rw [decodeSymbols_extractLsb', nibble_append_eq_or, gcrNibble_fst_setWidth, gcrNibble_fst_setWidth, gcrNibble_snd,
        gcrNibble_snd, ← hj, ← hk]
    have hdecode : decodeFive g0 g1 g2 g3 g4
        = ((List.range 4).map fun i => (nib (2 * i) <<< 4) ||| (nib (2 * i + 1) &&& 0x0F),
          (List.range 8).all fun j => decide (dec j < 0x80)) := by
      rw [decodeFive_eq, decodeGroup, hpair 30 0 1 rfl rfl, hpair 20 2 3 rfl rfl, hpair 10 4 5 rfl rfl, hpair 0 6 7 rfl rfl]
      simp [List.range_succ, Bool.and_assoc]
    rw [exec_gcrDecodeFourBytes, hdecode]
    rfl

theorem decodeFive_encodeFour {b0 b1 b2 b3 g0 g1 g2 g3 g4 : Byte} (h : encodeFour b0 b1 b2 b3 = [g0, g1, g2, g3, g4]) :
    decodeFive g0 g1 g2 g3 g4 = ([b0, b1, b2, b3], true) := by
  obtain ⟨h30, h20, h10, h0⟩ := extractLsb'_group (gcrByte b0) (gcrByte b1) (gcrByte b2) (gcrByte b3)
  rw [decodeFive_of_groupBytes h, decodeGroup, h30, h20, h10, h0]
  simp only [decodeSymbols_gcrByte, Bool.and_self]

/-- Settles O10: the five bytes of the encoded group. -/
theorem gcrRoundTrip : Obligations.GcrRoundTrip := by
  intro b0 b1 b2 b3 s
  have hgroup : encodeFour b0 b1 b2 b3 = groupBytes (gcrByte b0 ++ gcrByte b1 ++ gcrByte b2 ++ gcrByte b3) := rfl
  refine ⟨_, _, _, _, _, rfl, ?_⟩
  rw [exec_gcrDecodeFourBytes, decodeFive_encodeFour hgroup]
  rfl
end Sys2Proof.Machine

/-! ### The layout of a track (40_gcr_codec.md R210 to R214) -/

namespace Sys2Proof.Machine

/-! #### One sector -/

theorem encodeFour_length (b0 b1 b2 b3 : Byte) : (encodeFour b0 b1 b2 b3).length = 5 := rfl

/-- Bytes that no longer make a group of four. -/
theorem length_lt_four_of_no_group {bs : List Byte}
    (h : ∀ (b0 b1 b2 b3 : Byte) (rest : List Byte), bs = b0 :: b1 :: b2 :: b3 :: rest → False) : bs.length < 4 := by
  match bs, h with
  | [], _ | [_], _ | [_, _], _ | [_, _, _], _ => simp
  | b0 :: b1 :: b2 :: b3 :: rest, h => exact absurd rfl (h b0 b1 b2 b3 rest)

theorem encodeGroups_length (bs : List Byte) : (encodeGroups bs).length = 5 * (bs.length / 4) := by
  induction bs using encodeGroups.induct with
  | case1 b0 b1 b2 b3 rest ih =>
    rw [encodeGroups, List.length_append, ih, encodeFour_length]
    simp only [List.length_cons]
    omega
  | case2 bs hshort =>
    have hlt := length_lt_four_of_no_group hshort
    rw [encodeGroups.eq_2 _ hshort, List.length_nil]
    omega

theorem faultHeader_length (e : Byte) (h : List Byte) : (faultHeader e h).length = h.length := by
  unfold faultHeader
  split
  · exact List.length_set
  split
  · exact List.length_set
  · rfl

theorem faultData_length (e : Byte) (b : List Byte) : (faultData e b).length = b.length := by
  unfold faultData
  split
  · exact List.length_set
  split
  · exact List.length_set
  · rfl

theorem faultGcr_length (e : Byte) (c : List Byte) : (faultGcr e c).length = c.length := by
  unfold faultGcr
  split
  · exact List.length_set
  · rfl

theorem headerSync_length (e : Byte) : (headerSync e).length = 5 := List.length_replicate

theorem dataBlock_length {data : List Byte} (h : data.length = 256) : (dataBlock data).length = 260 := by
  simp [dataBlock, h]

/-- The checksum stands after the 256 data bytes. -/
theorem dataBlock_checksum {data : List Byte} (h : data.length = 256) : (dataBlock data).getD 257 0 = xorBytes data := by
  rw [dataBlock, List.getD_append_right _ _ _ _ (by simp [h])]
  simp [h]

/-- The ten bytes of a sector's header. -/
def headerGroups (id1 id2 trackNum s e : Byte) : List Byte := encodeGroups (faultHeader e (headerBlock id1 id2 s trackNum))

/-- The 325 bytes of a sector's data block. -/
def dataGroups (e : Byte) (data : List Byte) : List Byte := faultGcr e (encodeGroups (faultData e (dataBlock data)))

theorem sectorLayout_eq (p : Params) (id1 id2 trackNum : Byte) (nSectors : Nat) (s e : Byte) (data : List Byte) :
    sectorLayout p id1 id2 trackNum nSectors s e data
      = headerSync e ++ headerGroups id1 id2 trackNum s e ++ List.replicate p.headerGap 0x55
        ++ List.replicate 5 0xFF ++ dataGroups e data ++ List.replicate (tailGap p nSectors) 0x55 := rfl

theorem headerGroups_length (id1 id2 trackNum s e : Byte) : (headerGroups id1 id2 trackNum s e).length = 10 := by
  simp [headerGroups, encodeGroups_length, faultHeader_length, headerBlock]

theorem dataGroups_length {data : List Byte} (h : data.length = 256) (e : Byte) : (dataGroups e data).length = 325 := by
  rw [dataGroups, faultGcr_length, encodeGroups_length, faultData_length, dataBlock_length h]

theorem sectorLayout_length (p : Params) (id1 id2 trackNum : Byte) (nSectors : Nat) (s e : Byte) {data : List Byte}
    (h : data.length = 256) :
    (sectorLayout p id1 id2 trackNum nSectors s e data).length = 345 + p.headerGap + tailGap p nSectors := by
  rw [sectorLayout_eq]
  simp only [List.length_append, headerSync_length, headerGroups_length, dataGroups_length h, List.length_replicate]
  omega

/-- Settles O13: the layout is the model's, with the checksum at its place. -/
theorem sectorLayouts : Obligations.SectorLayouts := by
  intro p id1 id2 t s e nSectors data hdata h h' x b b' c c'
  have hb : b' = faultData e (dataBlock data) := by
    unfold faultData
    rw [dataBlock_checksum hdata]
    rfl
  have hc : c = encodeGroups (faultData e (dataBlock data)) := congrArg encodeGroups hb
  have hc' : c' = dataGroups e data := by
    unfold dataGroups
    rw [← hc]
    rfl
  constructor
  · rw [hc, encodeGroups_length, faultData_length, dataBlock_length hdata]
  · rw [hc']
    rfl

/-! #### A track of sectors -/

theorem length_flatMap_range {f : Nat → List Byte} {size : Nat} (hf : ∀ k, (f k).length = size) (n : Nat) :
    ((List.range n).flatMap f).length = n * size := by
  simp [List.length_flatMap, hf]

/-- Byte `j` of part `k` of a row of parts of one size. -/
theorem getD_flatMap_range {f : Nat → List Byte} {size : Nat} (hf : ∀ k, (f k).length = size) {n k j : Nat} (hk : k < n)
    (hj : j < size) (d : Byte) : ((List.range n).flatMap f).getD (k * size + j) d = (f k).getD j d := by
  induction n with
  | zero => exact absurd hk (Nat.not_lt_zero k)
  | succ n ih =>
    have hlen := length_flatMap_range hf n
    rw [List.range_succ, List.flatMap_append, List.flatMap_singleton]
    obtain hlt | rfl := Nat.lt_succ_iff_lt_or_eq.1 hk
    · have hle : (k + 1) * size ≤ n * size := Nat.mul_le_mul_right size hlt
      rw [Nat.succ_mul] at hle
      rw [List.getD_append _ _ _ _ (by omega), ih hlt]
    · rw [List.getD_append_right _ _ _ _ (by omega), hlen, Nat.add_sub_cancel_left]

/-- The layout of sector `k` of the track in TBM. -/
def sectorOf (p : Params) (t : Tbm) (trackNum : Byte) (nSectors k : Nat) : List Byte :=
  sectorLayout p t.idCharacter1 t.idCharacter2 trackNum nSectors (BitVec.ofNat 8 k) (t.bad.read k)
    (t.d64.readBytes (256 * k) 256)

theorem trackLayout_eq (p : Params) (t : Tbm) (trackNum : Byte) (nSectors : Nat) :
    trackLayout p t trackNum nSectors = (List.range nSectors).flatMap (sectorOf p t trackNum nSectors) := rfl

theorem sectorOf_length (p : Params) (t : Tbm) (trackNum : Byte) (nSectors k : Nat) :
    (sectorOf p t trackNum nSectors k).length = 345 + p.headerGap + tailGap p nSectors :=
  sectorLayout_length _ _ _ _ _ _ _ (Memory.readBytes_length _ _ _)

theorem trackLayout_length (p : Params) (t : Tbm) (trackNum : Byte) (nSectors : Nat) :
    (trackLayout p t trackNum nSectors).length = nSectors * (345 + p.headerGap + tailGap p nSectors) :=
  length_flatMap_range (sectorOf_length p t trackNum nSectors) nSectors

/-- The bytes of a track: the layout, padded with 0x55 or cut at `nBytes` (40_gcr_codec.md R214). -/
def trackBytes (p : Params) (t : Tbm) (trackNum : Byte) (nSectors nBytes : Nat) : List Byte :=
  (trackLayout p t trackNum nSectors).take nBytes
    ++ List.replicate (nBytes - ((trackLayout p t trackNum nSectors).take nBytes).length) 0x55

theorem encodeTrack_of_domain {nSectors nBytes : Nat} (h : trackDomain nSectors nBytes = true) (p : Params)
    (trackNum : Byte) (t : Tbm) :
    encodeTrack p trackNum nSectors nBytes t
      = { t with gcr := t.gcr.writeBytes 0 (trackBytes p t trackNum nSectors nBytes) } := if_pos h

theorem trackBytes_length (p : Params) (t : Tbm) (trackNum : Byte) (nSectors nBytes : Nat) :
    (trackBytes p t trackNum nSectors nBytes).length = nBytes := by
  simp only [trackBytes, List.length_append, List.length_take, List.length_replicate]
  omega

theorem getD_trackBytes (p : Params) (t : Tbm) (trackNum : Byte) (nSectors : Nat) {nBytes i : Nat} (h : i < nBytes) :
    (trackBytes p t trackNum nSectors nBytes).getD i 0 = (trackLayout p t trackNum nSectors).getD i 0x55 := by
  rw [trackBytes]
  by_cases hi : i < (trackLayout p t trackNum nSectors).length
  · rw [List.getD_append _ _ _ _ (by rw [List.length_take]; omega)]
    simp [List.getD_eq_getElem?_getD, h, hi]
  · have hlen : ((trackLayout p t trackNum nSectors).take nBytes).length ≤ i := by
      rw [List.length_take]
      omega
    rw [List.getD_append_right _ _ _ _ hlen, List.getD_replicate _ (by omega), List.getD_eq_default _ _ (by omega)]

/-- Settles O12: the layout is a row of parts of one size, and the track is written over the first `nBytes` bytes. -/
theorem gcrEncodeTrackLayout : Obligations.GcrEncodeTrackLayout := by
  intro trackNum nSectors nBytes s hsectors hbytes size layout
  refine ⟨trackLayout_length _ _ _ _, fun k j hk hj => ?_,
    s.tbm.gcr.writeBytes 0 (trackBytes s.params s.tbm trackNum nSectors nBytes), ?_, fun i => ?_⟩
  · rw [← Memory.readBytes_eq]
    exact getD_flatMap_range (sectorOf_length s.params s.tbm trackNum nSectors) hk hj 0
  · rw [exec_gcrEncodeTrack, encodeTrack_of_domain (trackDomain_iff.2 ⟨hsectors, hbytes⟩)]
    rfl
  · rw [Memory.read_writeBytes, trackBytes_length]
    simp only [Nat.zero_le, true_and, Nat.zero_add, Nat.sub_zero]
    split
    · next hi => exact getD_trackBytes _ _ _ _ hi
    · rfl

end Sys2Proof.Machine

/-! ### What a scan leaves (40_gcr_codec.md R230, R237)

A sector is reported once, while it is unseen, so its code changes once, from 0x03 to the code found. The count of good
sectors and the data written follow the codes. -/

namespace Sys2Proof.Machine

/-- The end of a good sector's scan: code 0x01, one more sector counted, its data written (40_gcr_codec.md R236). -/
def Scan.recover (sc : Scan) (k off : Nat) (data : List Byte) : Scan :=
  { sc.report k codeOk off with count := sc.count + 1, d64 := sc.d64.writeBytes (256 * k) data }

/-- What a turn of the scan does to sector `k`: a report of an injectable code, or the recovery of its data. -/
inductive SectorScanned (k : Nat) (sc : Scan) : Scan → Prop
  | bad {e : Byte} (off : Nat) (he : injectable e = true) : SectorScanned k sc (sc.report k e off)
  | good {data : List Byte} (off : Nat) (hdata : data.length ≤ 256) : SectorScanned k sc (sc.recover k off data)

theorem scanData_sectorScanned (b : Nat → Byte) (n k j : Nat) (sc : Scan) : SectorScanned k sc (scanData b n k j sc) := by
  unfold scanData
  split
  · exact .bad _ rfl
  dsimp only
  split
  · exact .bad _ rfl
  split
  · exact .bad _ rfl
  split
  · exact .bad _ rfl
  split
  · exact .bad _ rfl
  · exact .good _ (List.length_take_le _ _)

/-- Everything a turn of the scan can do: go on further down the track, or end the scan of one unseen sector. -/
theorem scanTurn_cases {b : Nat → Byte} {n nSectors : Nat} {trackNum : Byte} {sc sc' : Scan}
    (h : scanTurn b n trackNum nSectors sc = some sc') :
    (∃ off, sc' = { sc with off := off })
      ∨ ∃ k < nSectors, sc.seen.getD k true = false ∧ SectorScanned k sc sc' := by
  unfold scanTurn at h
  split at h
  · cases h
  dsimp only at h
  split at h
  · cases h
    exact .inl ⟨_, rfl⟩
  split at h
  · next hheader =>
    obtain ⟨-, hsector, -, hunseen⟩ := hheader
    refine .inr ⟨_, hsector, hunseen, ?_⟩
    split at h
    · cases h
      exact .bad _ rfl
    split at h
    · cases h
      exact .bad _ rfl
    · cases h
      exact scanData_sectorScanned _ _ _ _ _
  · cases h
    exact .inl ⟨_, rfl⟩

theorem getD_set {α : Type} (l : List α) (i j : Nat) (a d : α) :
    (l.set i a).getD j d = if i = j ∧ i < l.length then a else l.getD j d := by
  simp only [List.getD_eq_getElem?_getD, List.getElem?_set]
  by_cases hij : i = j
  · subst hij
    by_cases hi : i < l.length <;> simp [hi]
  · simp [hij]

/-- A scan of `n` sectors over the D64 buffer `d`: a legal code for each, 0x03 for the unseen; the count that of the good
sectors; no data outside theirs changed. -/
structure Scan.Legal (n : Nat) (d : Memory) (sc : Scan) : Prop where
  codes_length : sc.code.length = n
  seen_length : sc.seen.length = n
  codes : ∀ c ∈ sc.code, c = codeOk ∨ injectable c = true
  unseen : ∀ k, sc.seen.getD k true = false → sc.code.getD k 0 = codeSyncNotFound
  count : sc.count = sc.code.countP fun c => c == codeOk
  data : ∀ a, (256 * n ≤ a ∨ sc.code.getD (a / 256) 0 ≠ codeOk) → sc.d64.read a = d.read a

section
variable {n : Nat} {d : Memory} {sc sc' : Scan}

theorem Scan.Legal.withOff (h : sc.Legal n d) (off : Nat) : Scan.Legal n d { sc with off := off } :=
  ⟨h.codes_length, h.seen_length, h.codes, h.unseen, h.count, h.data⟩

theorem legal_start (n : Nat) (d : Memory) : (Scan.start n d).Legal n d where
  codes_length := List.length_replicate
  seen_length := List.length_replicate
  codes c hc := .inr (List.eq_of_mem_replicate hc ▸ rfl)
  unseen k hk := by
    have hlt : k < n := by
      by_contra hge
      rw [Scan.start, List.getD_eq_default _ _ (by simpa using hge)] at hk
      cases hk
    exact List.getD_replicate _ hlt
  count := by
    have hne : (codeSyncNotFound == codeOk) = false := rfl
    simp [Scan.start, List.countP_replicate, hne]
  data _ _ := rfl

theorem Scan.Legal.countP_set (h : sc.Legal n d) {k : Nat} (hk : k < n) (hunseen : sc.seen.getD k true = false)
    (e : Byte) :
    (sc.code.set k e).countP (fun c => c == codeOk) = sc.count + if e == codeOk then 1 else 0 := by
  have hlt : k < sc.code.length := h.codes_length ▸ hk
  have hcode : sc.code[k] = codeSyncNotFound := by
    rw [← List.getD_eq_getElem _ 0 hlt]
    exact h.unseen k hunseen
  have hne : (codeSyncNotFound == codeOk) = false := rfl
  rw [List.countP_set hlt, hcode, hne, h.count]
  simp

theorem Scan.Legal.codes_set (h : sc.Legal n d) (k : Nat) {e : Byte} (he : e = codeOk ∨ injectable e = true) :
    ∀ c ∈ sc.code.set k e, c = codeOk ∨ injectable c = true := by
  intro c hc
  obtain hc | rfl := List.mem_or_eq_of_mem_set hc
  · exact h.codes c hc
  · exact he

theorem Scan.Legal.unseen_set (h : sc.Legal n d) (k : Nat) (e : Byte) (i : Nat)
    (hi : (sc.seen.set k true).getD i true = false) : (sc.code.set k e).getD i 0 = codeSyncNotFound := by
  rw [getD_set, h.seen_length] at hi
  rw [getD_set, h.codes_length]
  split at hi
  · cases hi
  · next hother =>
    rw [if_neg hother]
    exact h.unseen i hi

/-- A report of an unseen sector leaves the data that the codes before it left alone. -/
theorem Scan.Legal.data_set (h : sc.Legal n d) {k : Nat} (hunseen : sc.seen.getD k true = false) {e : Byte} {a : Nat}
    (ha : 256 * n ≤ a ∨ (sc.code.set k e).getD (a / 256) 0 ≠ codeOk) : sc.d64.read a = d.read a := by
  refine h.data a (ha.imp_right fun hother => ?_)
  by_cases hk : k = a / 256
  · rw [← hk, h.unseen k hunseen]
    decide
  · rwa [getD_set, if_neg fun hboth => hk hboth.1] at hother

theorem Scan.Legal.sectorScanned (h : sc.Legal n d) {k : Nat} (hk : k < n) (hunseen : sc.seen.getD k true = false)
    (hscan : SectorScanned k sc sc') : sc'.Legal n d := by
  have hcodes := h.codes_length
  cases hscan with
  | @bad e off he =>
    have hne : (e == codeOk) = false := by
      rw [beq_eq_false_iff_ne]
      rintro rfl
      cases he
    refine ⟨List.length_set.trans h.codes_length, List.length_set.trans h.seen_length, h.codes_set k (.inr he),
      h.unseen_set k e, ?_, fun a ha => ?_⟩
    · show sc.count = _
      rw [Scan.report, h.countP_set hk hunseen, hne]
      rfl
    · exact h.data_set hunseen ha
  | @good data off hdata =>
    refine ⟨List.length_set.trans h.codes_length, List.length_set.trans h.seen_length, h.codes_set k (.inl rfl),
      h.unseen_set k codeOk, ?_, fun a ha => ?_⟩
    · show sc.count + 1 = _
      rw [Scan.recover, Scan.report, h.countP_set hk hunseen]
      rfl
    · have houtside : ¬ (256 * k ≤ a ∧ a < 256 * k + data.length) := by
        rintro ⟨hle, hlt⟩
        obtain hpast | hother := ha
        · omega
        · have hsector : k = a / 256 := by omega
          rw [Scan.recover, Scan.report, getD_set, if_pos ⟨hsector, hcodes.symm ▸ hk⟩] at hother
          exact hother rfl
      rw [Scan.recover, Memory.read_writeBytes, if_neg houtside]
      exact h.data_set hunseen ha

theorem Scan.Legal.scanTurn (h : sc.Legal n d) {b : Nat → Byte} {m : Nat} {trackNum : Byte}
    (hturn : scanTurn b m trackNum n sc = some sc') : sc'.Legal n d := by
  obtain ⟨off, rfl⟩ | ⟨k, hk, hunseen, hscan⟩ := scanTurn_cases hturn
  · exact h.withOff off
  · exact h.sectorScanned hk hunseen hscan

theorem Scan.Legal.scanTrack (h : sc.Legal n d) (b : Nat → Byte) (m : Nat) (trackNum : Byte) (fuel : Nat) :
    (scanTrack b m trackNum n fuel sc).Legal n d := by
  induction fuel generalizing sc with
  | zero => exact h
  | succ fuel ih =>
    unfold Machine.scanTrack
    split
    · split
      · exact h
      · next hturn => exact ih (h.scanTurn hturn)
    · exact h

end

theorem legal_scanned (trackNum : Byte) (nSectors nBytes : Nat) (t : Tbm) :
    (scanned trackNum nSectors nBytes t).Legal nSectors t.d64 := by
  have hstart := legal_start nSectors t.d64
  unfold scanned
  dsimp only
  split
  · exact hstart
  · exact hstart.scanTrack _ _ _ _

theorem decodeTrack_of_domain {nSectors nBytes : Nat} (h : trackDomain nSectors nBytes = true) (trackNum : Byte) (t : Tbm) :
    decodeTrack trackNum nSectors nBytes t
      = ((scanned trackNum nSectors nBytes t).count,
        { t with
          d64 := (scanned trackNum nSectors nBytes t).d64
          bad := t.bad.writeBytes 0 (scanned trackNum nSectors nBytes t).code }) := if_pos h

/-- Settles O15: the scan's codes are the witness, and what a scan leaves follows them. -/
theorem gcrDecodeTrackResult : Obligations.GcrDecodeTrackResult := by
  intro trackNum nSectors nBytes s hsectors hbytes
  have hlegal := legal_scanned trackNum nSectors nBytes s.tbm
  refine ⟨(scanned trackNum nSectors nBytes s.tbm).code, (scanned trackNum nSectors nBytes s.tbm).d64,
    s.tbm.bad.writeBytes 0 (scanned trackNum nSectors nBytes s.tbm).code, hlegal.codes_length, ?_, hlegal.codes,
    fun k => ?_, hlegal.data⟩
  · rw [exec_gcrDecodeTrack, decodeTrack_of_domain (trackDomain_iff.2 ⟨hsectors, hbytes⟩), hlegal.count]
    rfl
  · rw [Memory.read_writeBytes, hlegal.codes_length]
    simp

end Sys2Proof.Machine

/-! ### What the codec reads back (40_gcr_codec.md R202, R233) -/

namespace Sys2Proof.Machine

/-! #### Blocks of groups -/

theorem eq_nil_of_no_group {bs : List Byte} (hdvd : 4 ∣ bs.length)
    (h : ∀ (b0 b1 b2 b3 : Byte) (rest : List Byte), bs = b0 :: b1 :: b2 :: b3 :: rest → False) : bs = [] :=
  List.length_eq_zero_iff.1 (Nat.eq_zero_of_dvd_of_lt hdvd (length_lt_four_of_no_group h))

theorem decodeGroupList_encodeFour_append (b0 b1 b2 b3 : Byte) (rest : List Byte) :
    decodeGroupList (encodeFour b0 b1 b2 b3 ++ rest)
      = ([b0, b1, b2, b3] ++ (decodeGroupList rest).1, (decodeGroupList rest).2) := by
  have hgroup : encodeFour b0 b1 b2 b3 = groupBytes (gcrByte b0 ++ gcrByte b1 ++ gcrByte b2 ++ gcrByte b3) := rfl
  rw [hgroup, groupBytes]
  simp only [List.cons_append, List.nil_append, decodeGroupList]
  rw [decodeFive_encodeFour hgroup, Bool.true_and]
  rfl

/-- Encoded groups decode to what they encode, and what follows them decodes on its own. -/
theorem decodeGroupList_encodeGroups_append {bs : List Byte} (h : 4 ∣ bs.length) (rest : List Byte) :
    decodeGroupList (encodeGroups bs ++ rest) = (bs ++ (decodeGroupList rest).1, (decodeGroupList rest).2) := by
  induction bs using encodeGroups.induct with
  | case1 b0 b1 b2 b3 bs ih =>
    have hbs : 4 ∣ bs.length := by
      simp only [List.length_cons] at h
      omega
    rw [encodeGroups, List.append_assoc, decodeGroupList_encodeFour_append, ih hbs]
    rfl
  | case2 bs hshort =>
    rw [eq_nil_of_no_group h hshort]
    rfl

theorem decodeGroupList_encodeGroups {bs : List Byte} (h : 4 ∣ bs.length) :
    decodeGroupList (encodeGroups bs) = (bs, true) := by
  simpa [decodeGroupList] using decodeGroupList_encodeGroups_append h []

theorem encodeGroups_append {as : List Byte} (h : 4 ∣ as.length) (bs : List Byte) :
    encodeGroups (as ++ bs) = encodeGroups as ++ encodeGroups bs := by
  induction as using encodeGroups.induct with
  | case1 b0 b1 b2 b3 as ih =>
    have has : 4 ∣ as.length := by
      simp only [List.length_cons] at h
      omega
    simp only [List.cons_append, encodeGroups, ih has, List.append_assoc]
  | case2 as hshort =>
    rw [eq_nil_of_no_group h hshort]
    rfl

theorem gcrNibble_zero : gcrNibble 0 = (0, false) := by decide

/-- A group whose last byte is zero ends in an invalid symbol. -/
theorem decodeFive_zero_snd (g0 g1 g2 g3 : Byte) : (decodeFive g0 g1 g2 g3 0).2 = false := by
  have hlast : (g0 ++ g1 ++ g2 ++ g3 ++ (0 : Byte) : BitVec 40).extractLsb' 0 5 = 0 := by
    rw [BitVec.extractLsb'_append_eq_of_add_le (by decide)]
    rfl
  rw [decodeFive_eq, decodeGroup, decodeSymbols_extractLsb' _ 0, hlast, gcrNibble_zero, Bool.and_false, Bool.and_false]

/-- A block whose last byte is cleared: all groups but the last are read back, and the block is not valid. -/
theorem decodeGroupList_set_last {bs : List Byte} {m : Nat} (h : bs.length = 4 * m + 4) :
    ∃ ys, decodeGroupList ((encodeGroups bs).set (5 * m + 4) 0) = (bs.take (4 * m) ++ ys, false) := by
  have hinit : (bs.take (4 * m)).length = 4 * m := by
    rw [List.length_take]
    omega
  have hdvd : 4 ∣ (bs.take (4 * m)).length := ⟨m, hinit⟩
  have hgroups : (encodeGroups (bs.take (4 * m))).length = 5 * m := by
    rw [encodeGroups_length, hinit]
    omega
  obtain ⟨b0, b1, b2, b3, hlast⟩ : ∃ b0 b1 b2 b3, bs.drop (4 * m) = [b0, b1, b2, b3] := by
    have hlen : (bs.drop (4 * m)).length = 4 := by
      rw [List.length_drop]
      omega
    exact List.length_eq_four.1 hlen
  have hsplit : (encodeGroups bs).set (5 * m + 4) 0
      = encodeGroups (bs.take (4 * m)) ++ (encodeFour b0 b1 b2 b3).set 4 0 := by
    conv_lhs => rw [← List.take_append_drop (4 * m) bs, encodeGroups_append hdvd, hlast]
    rw [List.set_append_right _ _ (by omega), hgroups, Nat.add_sub_cancel_left]
    rfl
  refine ⟨(decodeGroupList ((encodeFour b0 b1 b2 b3).set 4 0)).1, ?_⟩
  rw [hsplit, decodeGroupList_encodeGroups_append hdvd]
  refine Prod.ext rfl ?_
  exact (Bool.and_true _).trans (decodeFive_zero_snd _ _ _ _)

/-! #### The first byte of a block -/

theorem encodeGroups_getD_zero (b0 b1 b2 b3 : Byte) (rest : List Byte) :
    (encodeGroups (b0 :: b1 :: b2 :: b3 :: rest)).getD 0 0 = (gcrByte b0).extractLsb' 2 8 := by
  show (gcrByte b0 ++ gcrByte b1 ++ gcrByte b2 ++ gcrByte b3).extractLsb' 32 8 = _
  simp (disch := decide) only [BitVec.extractLsb'_append_eq_of_le]

theorem gcrByte_first : (gcrByte 0x00).extractLsb' 2 8 = 0x52 ∧ (gcrByte 0x08).extractLsb' 2 8 = 0x52
    ∧ (gcrByte 0x07).extractLsb' 2 8 = 0x55 := by
  decide

/-! #### Checksums -/

theorem xorBytes_append_singleton (bs : List Byte) (x : Byte) : xorBytes (bs ++ [x]) = xorBytes bs ^^^ x := by
  simp [xorBytes]

/-- The checksum of a header cancels its four bytes. -/
theorem xorBytes_header (c s t id2 id1 : Byte) : xorBytes [s ^^^ t ^^^ id2 ^^^ id1 ^^^ c, s, t, id2, id1] = c := by
  calc 0#8 ^^^ (s ^^^ t ^^^ id2 ^^^ id1 ^^^ c) ^^^ s ^^^ t ^^^ id2 ^^^ id1
      = 0#8 ^^^ ((s ^^^ t ^^^ id2 ^^^ id1) ^^^ (s ^^^ t ^^^ id2 ^^^ id1) ^^^ c) := by ac_rfl
    _ = c := by rw [BitVec.xor_self, BitVec.zero_xor, BitVec.zero_xor]

end Sys2Proof.Machine

/-! ### Where the sync runs of a track stand (40_gcr_codec.md R231, R232) -/

namespace Sys2Proof.Machine

/-! #### Bytes without a sync -/

/-- No byte 0xFF before another one, nor at the end, where one may follow. -/
def SyncFree (xs : List Byte) : Prop := ∀ i < xs.length, xs.getD i 0 = 0xFF → xs.getD (i + 1) 0xFF ≠ 0xFF

theorem syncFree_nil : SyncFree [] := fun _ hi => absurd hi (Nat.not_lt_zero _)

theorem syncFree_append {xs ys : List Byte} (hx : SyncFree xs) (hy : SyncFree ys) : SyncFree (xs ++ ys) := by
  intro i hi hff
  by_cases hlt : i < xs.length
  · rw [List.getD_append _ _ _ _ hlt] at hff
    have hnext := hx i hlt hff
    have hlast : i + 1 < xs.length := by
      by_contra hge
      exact hnext (List.getD_eq_default _ _ (by omega))
    rw [List.getD_append _ _ _ _ hlast]
    exact hnext
  · rw [List.length_append] at hi
    rw [List.getD_append_right _ _ _ _ (by omega)] at hff ⊢
    rw [show i + 1 - xs.length = i - xs.length + 1 by omega]
    exact hy _ (by omega) hff

theorem syncFree_replicate (n : Nat) : SyncFree (List.replicate n 0x55) := by
  intro i hi hff
  rw [List.length_replicate] at hi
  rw [List.getD_replicate _ hi] at hff
  cases hff

/-- Where 0xFF stands at the third place of a group only, it is followed by another byte. -/
theorem syncFree_of_place {xs : List Byte} (hlen : 5 ∣ xs.length) (h : ∀ i, xs.getD i 0 = 0xFF → i % 5 = 2) :
    SyncFree xs := by
  intro i hi hff hnext
  have hplace := h i hff
  have hlast : i + 1 < xs.length := by omega
  have hplace' : (i + 1) % 5 = 2 := by
    refine h (i + 1) ?_
    rw [List.getD_eq_getElem _ _ hlast] at hnext ⊢
    exact hnext
  omega

theorem syncFree_encodeGroups (bs : List Byte) : SyncFree (encodeGroups bs) :=
  syncFree_of_place (encodeGroups_length bs ▸ Nat.dvd_mul_right 5 _) fun _ h => place_of_encodeGroups_eq_FF h

theorem syncFree_headerGroups (id1 id2 trackNum s e : Byte) : SyncFree (headerGroups id1 id2 trackNum s e) :=
  syncFree_encodeGroups _

theorem place_of_dataGroups_eq_FF {e : Byte} {data : List Byte} {i : Nat} (h : (dataGroups e data).getD i 0 = 0xFF) :
    i % 5 = 2 := by
  unfold dataGroups faultGcr at h
  split at h
  · rw [getD_set] at h
    split at h
    · cases h
    · exact place_of_encodeGroups_eq_FF h
  · exact place_of_encodeGroups_eq_FF h

theorem syncFree_dataGroups (e : Byte) (data : List Byte) : SyncFree (dataGroups e data) := by
  refine syncFree_of_place ?_ fun _ h => place_of_dataGroups_eq_FF h
  rw [dataGroups, faultGcr_length, encodeGroups_length]
  exact Nat.dvd_mul_right 5 _

/-! #### Bytes that do not end in 0xFF -/

/-- The last byte, if any, is not 0xFF. -/
def EndsClear (xs : List Byte) : Prop := xs.getLast? ≠ some 0xFF

theorem endsClear_append {xs ys : List Byte} (hx : EndsClear xs) (hy : EndsClear ys) : EndsClear (xs ++ ys) := by
  unfold EndsClear at *
  rw [List.getLast?_append]
  cases hlast : ys.getLast? with
  | none => exact hx
  | some y =>
    rw [hlast] at hy
    exact hy

theorem endsClear_append_right {ys : List Byte} (xs : List Byte) (hne : ys ≠ []) (hy : EndsClear ys) :
    EndsClear (xs ++ ys) := by
  unfold EndsClear at *
  rwa [List.getLast?_append_of_ne_nil _ hne]

theorem SyncFree.endsClear {xs : List Byte} (h : SyncFree xs) : EndsClear xs := by
  intro hlast
  rw [List.getLast?_eq_getElem?] at hlast
  obtain ⟨hlt, hff⟩ := List.getElem?_eq_some_iff.1 hlast
  refine h _ hlt ?_ (List.getD_eq_default _ _ (by omega))
  rw [List.getD_eq_getElem _ _ hlt, hff]

theorem endsClear_flatMap {f : Nat → List Byte} (hf : ∀ k, EndsClear (f k)) (ks : List Nat) : EndsClear (ks.flatMap f) := by
  induction ks with
  | nil => exact syncFree_nil.endsClear
  | cons k ks ih => exact endsClear_append (hf k) ih

theorem EndsClear.getD_last {xs : List Byte} (h : EndsClear xs) (hne : xs ≠ []) : xs.getD (xs.length - 1) 0 ≠ 0xFF := by
  intro hff
  have hlt : xs.length - 1 < xs.length := Nat.sub_lt (List.length_pos_of_ne_nil hne) Nat.one_pos
  rw [List.getD_eq_getElem _ _ hlt] at hff
  exact h (by rw [List.getLast?_eq_getElem?, List.getElem?_eq_getElem hlt, hff])

/-! #### Bytes that a track holds from a place on -/

/-- The bytes `xs` stand from place `o` on. -/
def HoldsAt (b : Nat → Byte) (o : Nat) (xs : List Byte) : Prop := ∀ i < xs.length, b (o + i) = xs.getD i 0

section
variable {b : Nat → Byte} {o : Nat} {xs ys rest : List Byte}

theorem HoldsAt.left (h : HoldsAt b o (xs ++ ys)) : HoldsAt b o xs := by
  intro i hi
  rw [h i (by rw [List.length_append]; omega), List.getD_append _ _ _ _ hi]

theorem HoldsAt.right (h : HoldsAt b o (xs ++ ys)) : HoldsAt b (o + xs.length) ys := by
  intro i hi
  rw [Nat.add_assoc, h _ (by rw [List.length_append]; omega), List.getD_append_right _ _ _ _ (by omega),
    Nat.add_sub_cancel_left]

theorem decodeGroups_of_holdsAt {m : Nat} (h : HoldsAt b o xs) (hlen : xs.length = 5 * m) :
    decodeGroups b o m = decodeGroupList xs := by
  have hxs : (List.range (5 * m)).map (fun i => b (o + i)) = xs := by
    refine List.ext_getElem (by simp [hlen]) fun i hi hi' => ?_
    rw [List.getElem_map, List.getElem_range, h i hi', List.getD_eq_getElem _ _ hi']
  rw [decodeGroups, hxs]

/-- The first byte of a block comes from its first group. -/
theorem decodeGroups_succ_getD_zero (b : Nat → Byte) (o m : Nat) :
    (decodeGroups b o (m + 1)).1.getD 0 0 = (decodeGroups b o 1).1.getD 0 0 := by
  have hfirst : ∀ m, (decodeGroups b o (m + 1)).1.getD 0 0
      = (decodeFive (b o) (b (o + 1)) (b (o + 2)) (b (o + 3)) (b (o + 4))).1.getD 0 0 := by
    intro m
    rw [decodeGroups, Nat.mul_succ]
    simp only [List.range_succ_eq_map, List.map_cons, List.map_map, decodeGroupList]
    rfl
  rw [hfirst m, hfirst 0]

theorem isSync_of_syncFree (hb : HoldsAt b o xs) (hx : SyncFree xs) {i : Nat} (hi : i < xs.length) :
    isSync b (o + i) = false := by
  by_contra hsync
  rw [Bool.not_eq_false, isSync, Bool.and_eq_true, beq_iff_eq, beq_iff_eq] at hsync
  obtain ⟨hff, hff'⟩ := hsync
  rw [hb i hi] at hff
  have hnext := hx i hi hff
  by_cases hlast : i + 1 < xs.length
  · rw [Nat.add_assoc, hb _ hlast, List.getD_eq_getElem _ _ hlast] at hff'
    rw [List.getD_eq_getElem _ _ hlast] at hnext
    exact hnext hff'
  · exact hnext (List.getD_eq_default _ _ (by omega))

theorem findFrom_eq_some {p : Nat → Bool} {a n k : Nat} (hle : a ≤ k) (hlt : k < a + n) (hk : p k = true)
    (hbefore : ∀ j, a ≤ j → j < k → p j = false) : findFrom p a n = some k := by
  cases h : findFrom p a n with
  | none =>
    have hno := findFrom_none h k hle hlt
    rw [hk] at hno
    cases hno
  | some k' =>
    obtain ⟨hle', -, hk', hbefore'⟩ := findFrom_some h
    obtain hlt' | rfl | hlt' := Nat.lt_trichotomy k' k
    · rw [hbefore k' hle' hlt'] at hk'
      cases hk'
    · rfl
    · have hno := hbefore' k hle hlt'
      rw [hk] at hno
      cases hno

theorem findFrom_eq_none {p : Nat → Bool} {a n : Nat} (h : ∀ j, a ≤ j → j < a + n → p j = false) :
    findFrom p a n = none := by
  cases hfind : findFrom p a n with
  | none => rfl
  | some k =>
    obtain ⟨hle, hlt, hk, -⟩ := findFrom_some hfind
    rw [h k hle hlt] at hk
    cases hk

/-- A sync run of the layout. -/
def syncRun : List Byte := List.replicate 5 0xFF

theorem syncRun_length : syncRun.length = 5 := rfl

theorem isSync_of_syncRun (hb : HoldsAt b o syncRun) : isSync b o = true := by
  have h0 : b o = 0xFF := hb 0 (by decide)
  have h1 : b (o + 1) = 0xFF := hb 1 (by decide)
  rw [isSync, h0, h1]
  rfl

/-- The next sync is the run that follows bytes without one. -/
theorem findFrom_isSync (hb : HoldsAt b o (xs ++ (syncRun ++ rest))) (hx : SyncFree xs) {n : Nat} (hn : xs.length < n) :
    findFrom (isSync b) o n = some (o + xs.length) := by
  refine findFrom_eq_some (by omega) (by omega) (isSync_of_syncRun hb.right.left) fun j hle hlt => ?_
  have hfree := isSync_of_syncFree hb.left hx (show j - o < xs.length by omega)
  rwa [show o + (j - o) = j by omega] at hfree

/-- A run ends at the first byte after its five. -/
theorem skipSync_syncRun (hb : HoldsAt b o (syncRun ++ rest)) (hne : rest ≠ []) (hfirst : rest.getD 0 0 ≠ 0xFF) {n : Nat}
    (hn : 5 ≤ n) : skipSync b n o = o + 5 := by
  have hstop : (b (o + 5) != 0xFF) = true := by
    rw [show b (o + 5) = rest.getD 0 0 from hb.right 0 (List.length_pos_of_ne_nil hne), bne_iff_ne]
    exact hfirst
  have hrun : ∀ j, o ≤ j → j < o + 5 → (b j != 0xFF) = false := by
    intro j hle hlt
    have hff : b (o + (j - o)) = 0xFF := by
      rw [hb.left (j - o) (by rw [syncRun_length]; omega)]
      exact List.getD_replicate _ (by omega)
    rw [show o + (j - o) = j by omega] at hff
    rw [hff]
    rfl
  rw [skipSync, findFrom_eq_some (by omega) (by omega) hstop hrun]
  rfl

end

end Sys2Proof.Machine

/-! ### One sector of an encoded track (40_gcr_codec.md R230, R234 to R236)

The scan reads a laid-out sector in one turn or two: its header, and in the same turn its data block when the header is
valid; a data block whose header was not is passed over in a turn of its own. -/

namespace Sys2Proof.Machine

/-! #### What a sector's blocks decode to -/

/-- Only codes 0x02 and 0x09 change the header (40_gcr_codec.md R213); below, only 0x04 and 0x05 the data block, and 0x10 the
data GCR. -/
theorem faultHeader_of_ne {e : Byte} (h2 : e ≠ codeHeaderNotFound) (h9 : e ≠ codeHeaderCrc) (h : List Byte) :
    faultHeader e h = h := by
  rw [faultHeader, if_neg h2, if_neg h9]

theorem faultData_of_ne {e : Byte} (h4 : e ≠ codeDataNotFound) (h5 : e ≠ codeDataCrc) (b : List Byte) :
    faultData e b = b := by
  rw [faultData, if_neg h4, if_neg h5]

theorem faultGcr_of_ne {e : Byte} (h : e ≠ codeGcr) (c : List Byte) : faultGcr e c = c := if_neg h

theorem decodeGroupList_headerGroups (id1 id2 trackNum s e : Byte) :
    decodeGroupList (headerGroups id1 id2 trackNum s e) = (faultHeader e (headerBlock id1 id2 s trackNum), true) :=
  decodeGroupList_encodeGroups (by rw [faultHeader_length]; exact ⟨2, rfl⟩)

/-- A header names its sector and its track, whatever its fault. -/
theorem faultHeader_fields (id1 id2 trackNum s e : Byte) :
    (faultHeader e (headerBlock id1 id2 s trackNum)).getD 2 0 = s
      ∧ (faultHeader e (headerBlock id1 id2 s trackNum)).getD 3 0 = trackNum := by
  unfold faultHeader
  split
  · exact ⟨rfl, rfl⟩
  split
  · exact ⟨rfl, rfl⟩
  · exact ⟨rfl, rfl⟩

theorem headerGroups_first (id1 id2 trackNum s e : Byte) : (headerGroups id1 id2 trackNum s e).getD 0 0 = 0x52 := by
  obtain ⟨h00, h08, -⟩ := gcrByte_first
  unfold headerGroups faultHeader
  split
  · exact (encodeGroups_getD_zero _ _ _ _ _).trans h00
  split
  · exact (encodeGroups_getD_zero _ _ _ _ _).trans h08
  · exact (encodeGroups_getD_zero _ _ _ _ _).trans h08

theorem exists_four_cons {bs : List Byte} (h : 3 ≤ bs.length) (b0 : Byte) :
    ∃ b1 b2 b3 rest, b0 :: bs = b0 :: b1 :: b2 :: b3 :: rest := by
  match bs, h with
  | b1 :: b2 :: b3 :: rest, _ => exact ⟨b1, b2, b3, rest, rfl⟩

/-- A data block that starts with 0x07 does not look like a header. -/
theorem dataGroups_first {e : Byte} (h4 : e ≠ codeDataNotFound) (data : List Byte) :
    (dataGroups e data).getD 0 0 = 0x55 := by
  obtain ⟨-, -, h07⟩ := gcrByte_first
  have hgroups : (dataGroups e data).getD 0 0 = (encodeGroups (faultData e (dataBlock data))).getD 0 0 := by
    unfold dataGroups faultGcr
    split
    · rw [getD_set, if_neg (by omega)]
    · rfl
  obtain ⟨bs, hblock, hlen⟩ : ∃ bs, faultData e (dataBlock data) = 0x07 :: bs ∧ 3 ≤ bs.length := by
    unfold faultData
    rw [if_neg h4]
    split
    · exact ⟨_, rfl, by simp⟩
    · exact ⟨_, rfl, by simp⟩
  obtain ⟨b1, b2, b3, rest, hbs⟩ := exists_four_cons hlen 0x07
  rw [hgroups, hblock, hbs, encodeGroups_getD_zero, h07]

/-- A data block with checksum `c`. -/
def checkedBlock (data : List Byte) (c : Byte) : List Byte := 0x07 :: (data ++ [c, 0x00, 0x00])

theorem dataBlock_eq (data : List Byte) : dataBlock data = checkedBlock data (xorBytes data) := rfl

theorem checkedBlock_length {data : List Byte} (h : data.length = 256) (c : Byte) : (checkedBlock data c).length = 260 := by
  simp [checkedBlock, h]

theorem checkedBlock_drop_take {data : List Byte} (h : data.length = 256) (c : Byte) :
    ((checkedBlock data c).drop 1).take 257 = data ++ [c] ∧ ((checkedBlock data c).drop 1).take 256 = data := by
  have hdrop : (checkedBlock data c).drop 1 = data ++ [c, 0x00, 0x00] := rfl
  rw [hdrop]
  constructor
  · rw [List.take_append, h, List.take_of_length_le (by omega)]
    rfl
  · exact List.take_left' h

/-- Code 0x05 complements the checksum. -/
theorem faultData_dataCrc {data : List Byte} (h : data.length = 256) :
    faultData codeDataCrc (dataBlock data) = checkedBlock data (xorBytes data ^^^ 0xFF) := by
  have hfault : faultData codeDataCrc (dataBlock data)
      = (dataBlock data).set 257 ((dataBlock data).getD 257 0 ^^^ 0xFF) := rfl
  rw [hfault, dataBlock_checksum h, dataBlock_eq, checkedBlock, List.set_cons_succ, List.set_append_right _ _ (by omega), h]
  rfl

theorem xorBytes_checked (data : List Byte) (c : Byte) : xorBytes (data ++ [xorBytes data ^^^ c]) = c := by
  rw [xorBytes_append_singleton, ← BitVec.xor_assoc, BitVec.xor_self, BitVec.zero_xor]

/-! #### The end of a sector's scan -/

/-- The end of the scan of a sector laid out with code `e`: that code reported, or the data recovered. -/
def Scan.readBack (sc : Scan) (e : Byte) (data : List Byte) (k off : Nat) : Scan :=
  if injectable e then sc.report k e off else sc.recover k off data

theorem Scan.readBack_off (sc : Scan) (e : Byte) (data : List Byte) (k off : Nat) :
    (sc.readBack e data k off).off = off := by
  unfold Scan.readBack
  split <;> rfl

/-- What the data block of a sector with a valid header ends in, by what the block decodes to. -/
theorem scanData_eq {b : Nat → Byte} {n k j k2 j2 : Nat} (sc : Scan) {blk : List Byte} {ok : Bool}
    (hsync : findFrom (isSync b) (j + 10) n = some k2) (hskip : skipSync b n k2 = j2)
    (hblk : decodeGroups b j2 65 = (blk, ok)) (hfirst : blk.getD 0 0 ≠ 0x08) :
    scanData b n k j sc
      = if blk.getD 0 0 ≠ 0x07 then sc.report k codeDataNotFound (j2 + 325)
        else if ok = false then sc.report k codeGcr (j2 + 325)
        else if xorBytes ((blk.drop 1).take 257) ≠ 0 then sc.report k codeDataCrc (j2 + 325)
        else sc.recover k (j2 + 325) ((blk.drop 1).take 256) := by
  have hone : (decodeGroups b j2 1).1.getD 0 0 ≠ 0x08 := by
    rw [← decodeGroups_succ_getD_zero b j2 64, hblk]
    exact hfirst
  unfold scanData
  rw [hsync]
  dsimp only
  rw [hskip, if_neg hone, hblk]
  rfl

/-- The data block of a laid-out sector reads back with the sector's code (R235, R236). -/
theorem scanData_dataGroups {b : Nat → Byte} {n k j k2 j2 : Nat} (sc : Scan) {e : Byte} {data : List Byte}
    (hdata : data.length = 256) (hsync : findFrom (isSync b) (j + 10) n = some k2) (hskip : skipSync b n k2 = j2)
    (hb : HoldsAt b j2 (dataGroups e data)) (h2 : e ≠ codeHeaderNotFound) (h3 : e ≠ codeSyncNotFound)
    (h9 : e ≠ codeHeaderCrc) : scanData b n k j sc = sc.readBack e data k (j2 + 325) := by
  have hblk : decodeGroups b j2 65 = decodeGroupList (dataGroups e data) :=
    decodeGroups_of_holdsAt hb (dataGroups_length hdata e)
  have hlen := dataBlock_length hdata
  have hvalid : ∀ bs : List Byte, bs.length = 260 → decodeGroupList (encodeGroups bs) = (bs, true) :=
    fun bs hbs => decodeGroupList_encodeGroups (hbs ▸ ⟨65, rfl⟩)
  by_cases h4 : e = codeDataNotFound
  · subst h4
    have hgroups : dataGroups codeDataNotFound data = encodeGroups ((dataBlock data).set 0 0x00) := rfl
    rw [hgroups, hvalid _ (List.length_set.trans hlen)] at hblk
    exact scanData_eq sc hsync hskip hblk (show (0x00 : Byte) ≠ 0x08 by decide)
  by_cases h5 : e = codeDataCrc
  · subst h5
    have hgroups : dataGroups codeDataCrc data = encodeGroups (checkedBlock data (xorBytes data ^^^ 0xFF)) :=
      congrArg encodeGroups (faultData_dataCrc hdata)
    rw [hgroups, hvalid _ (checkedBlock_length hdata _)] at hblk
    rw [scanData_eq sc hsync hskip hblk (show (0x07 : Byte) ≠ 0x08 by decide), (checkedBlock_drop_take hdata _).1,
      xorBytes_checked]
    rfl
  by_cases h10 : e = codeGcr
  · subst h10
    have hgroups : dataGroups codeGcr data = (encodeGroups (dataBlock data)).set (5 * 64 + 4) 0x00 := rfl
    obtain ⟨ys, hys⟩ := decodeGroupList_set_last (m := 64) hlen
    rw [hgroups, hys] at hblk
    exact scanData_eq sc hsync hskip hblk (show (0x07 : Byte) ≠ 0x08 by decide)
  · have hgroups : dataGroups e data = encodeGroups (dataBlock data) := by
      rw [dataGroups, faultGcr_of_ne h10, faultData_of_ne h4 h5]
    obtain ⟨h257, h256⟩ := checkedBlock_drop_take hdata (xorBytes data)
    have hinj : injectable e = false := by
      simp only [injectable, Bool.or_eq_false_iff, beq_eq_false_iff_ne]
      exact ⟨⟨⟨⟨⟨h2, h3⟩, h4⟩, h5⟩, h9⟩, h10⟩
    have hsum : xorBytes (data ++ [xorBytes data]) = 0 := by
      rw [xorBytes_append_singleton, BitVec.xor_self]
      rfl
    rw [hgroups, hvalid _ hlen, dataBlock_eq] at hblk
    rw [scanData_eq sc hsync hskip hblk (show (0x07 : Byte) ≠ 0x08 by decide), h257, h256, hsum, Scan.readBack, hinj]
    rfl

end Sys2Proof.Machine

/-! ### The scan over the sectors of an encoded track (40_gcr_codec.md R230, R240) -/

namespace Sys2Proof.Machine

/-! #### The parts of a laid-out sector -/

/-- The data that sector `k` is laid out with. -/
def sectorData (t : Tbm) (k : Nat) : List Byte := t.d64.readBytes (256 * k) 256

theorem sectorData_length (t : Tbm) (k : Nat) : (sectorData t k).length = 256 := Memory.readBytes_length _ _ _

/-- The header of sector `k` after its sync run. -/
def headerPart (t : Tbm) (trackNum : Byte) (k : Nat) : List Byte :=
  headerGroups t.idCharacter1 t.idCharacter2 trackNum (BitVec.ofNat 8 k) (t.bad.read k)

/-- The data block of sector `k` after its sync run, with the tail gap. -/
def dataPart (p : Params) (t : Tbm) (nSectors k : Nat) : List Byte :=
  dataGroups (t.bad.read k) (sectorData t k) ++ List.replicate (tailGap p nSectors) 0x55

theorem sectorOf_eq (p : Params) (t : Tbm) (trackNum : Byte) (nSectors k : Nat) :
    sectorOf p t trackNum nSectors k
      = headerSync (t.bad.read k) ++ (headerPart t trackNum k ++ (List.replicate p.headerGap 0x55
          ++ (syncRun ++ dataPart p t nSectors k))) := by
  rw [sectorOf, sectorLayout_eq, List.append_assoc, List.append_assoc, List.append_assoc, List.append_assoc]
  rfl

theorem headerSync_of_ne {e : Byte} (h : e ≠ codeSyncNotFound) : headerSync e = syncRun := by
  rw [headerSync, if_neg h, syncRun]

theorem headerSync_syncNotFound : headerSync codeSyncNotFound = List.replicate 5 0x55 := rfl

theorem headerPart_length (t : Tbm) (trackNum : Byte) (k : Nat) : (headerPart t trackNum k).length = 10 :=
  headerGroups_length _ _ _ _ _

theorem syncFree_dataPart (p : Params) (t : Tbm) (nSectors k : Nat) : SyncFree (dataPart p t nSectors k) :=
  syncFree_append (syncFree_dataGroups _ _) (syncFree_replicate _)

/-- A sector without its header sync is bytes without a sync up to its data sync. -/
theorem sectorOf_of_no_headerSync {t : Tbm} {k : Nat} (h3 : t.bad.read k = codeSyncNotFound) (p : Params) (trackNum : Byte)
    (nSectors : Nat) :
    ∃ as, SyncFree as ∧ sectorOf p t trackNum nSectors k = as ++ (syncRun ++ dataPart p t nSectors k) := by
  refine ⟨List.replicate 5 0x55 ++ (headerPart t trackNum k ++ List.replicate p.headerGap 0x55), ?_, ?_⟩
  · exact syncFree_append (syncFree_replicate 5)
      (syncFree_append (syncFree_headerGroups _ _ _ _ _) (syncFree_replicate _))
  · rw [sectorOf_eq, h3, headerSync_syncNotFound]
    simp only [List.append_assoc]

/-! #### Turns of the scan -/

/-- One turn that moves the scan on. -/
def Turn (b : Nat → Byte) (n : Nat) (trackNum : Byte) (nSectors : Nat) (sc sc' : Scan) : Prop :=
  sc.off < n ∧ sc.off < sc'.off ∧ scanTurn b n trackNum nSectors sc = some sc'

/-- The bytes from place `o` to the end of the track are `xs`. -/
def Ahead (b : Nat → Byte) (n o : Nat) (xs : List Byte) : Prop := HoldsAt b o xs ∧ o + xs.length = n

section
variable {b : Nat → Byte} {n nSectors : Nat} {trackNum : Byte} {sc sc' : Scan} {xs rest : List Byte}

theorem Ahead.right {o : Nat} (h : Ahead b n o (xs ++ rest)) : Ahead b n (o + xs.length) rest := by
  obtain ⟨hb, hlen⟩ := h
  rw [List.length_append] at hlen
  exact ⟨hb.right, by omega⟩

/-- Where the scan stands before a sync run, it finds that run and its end. -/
theorem Ahead.sync {o : Nat} (h : Ahead b n o (xs ++ (syncRun ++ rest))) (hx : SyncFree xs) (hne : rest ≠ [])
    (hfirst : rest.getD 0 0 ≠ 0xFF) :
    o < n ∧ findFrom (isSync b) o (n - o) = some (o + xs.length) ∧ findFrom (isSync b) o n = some (o + xs.length)
      ∧ skipSync b n (o + xs.length) = o + xs.length + 5 ∧ Ahead b n (o + xs.length + 5) rest := by
  obtain ⟨hb, hlen⟩ := h
  simp only [List.length_append, syncRun_length] at hlen
  exact ⟨by omega, findFrom_isSync hb hx (by omega), findFrom_isSync hb hx (by omega),
    skipSync_syncRun hb.right hne hfirst (by omega), Ahead.right (Ahead.right ⟨hb, by simp [syncRun_length]; omega⟩)⟩

theorem Ahead.first {o : Nat} (h : Ahead b n o xs) (hne : xs ≠ []) : b o = xs.getD 0 0 :=
  h.1 0 (List.length_pos_of_ne_nil hne)

/-- The scan ends where no sync is left. -/
theorem scanTrack_of_syncFree (h : Ahead b n sc.off xs) (hx : SyncFree xs) (fuel : Nat) :
    scanTrack b n trackNum nSectors fuel sc = sc := by
  obtain ⟨hb, hlen⟩ := h
  have hnone : findFrom (isSync b) sc.off (n - sc.off) = none := by
    refine findFrom_eq_none fun j hle hlt => ?_
    have hfree := isSync_of_syncFree hb hx (show j - sc.off < xs.length by omega)
    rwa [show sc.off + (j - sc.off) = j by omega] at hfree
  cases fuel with
  | zero => rfl
  | succ fuel =>
    have hturn : scanTurn b n trackNum nSectors sc = none := by
      rw [scanTurn, hnone]
    rw [scanTrack, hturn]
    exact ite_self sc

/-- The scan takes its turns one after another; as each moves on, `n` turns are enough. -/
theorem scanTrack_of_turns (h : Relation.ReflTransGen (Turn b n trackNum nSectors) sc sc')
    (hend : ∀ fuel, scanTrack b n trackNum nSectors fuel sc' = sc') {fuel : Nat} (hfuel : n ≤ sc.off + fuel) :
    scanTrack b n trackNum nSectors fuel sc = sc' := by
  induction h using Relation.ReflTransGen.head_induction_on generalizing fuel with
  | refl => exact hend fuel
  | head hturn _ ih =>
    obtain ⟨hlt, hmoves, hturn⟩ := hturn
    cases fuel with
    | zero => omega
    | succ fuel =>
      rw [scanTrack, if_pos hlt, hturn]
      exact ih (by omega)

/-- A sync run that heads no header is passed over. -/
theorem scanTurn_pass {k j : Nat} (hsync : findFrom (isSync b) sc.off (n - sc.off) = some k) (hskip : skipSync b n k = j)
    (hb : b j ≠ 0x52) : scanTurn b n trackNum nSectors sc = some { sc with off := j } := by
  rw [scanTurn, hsync]
  dsimp only
  rw [hskip, if_pos hb]

/-- A valid header of an unseen sector `s` of this track. -/
theorem scanTurn_header {k j s : Nat} {h : List Byte} (hsync : findFrom (isSync b) sc.off (n - sc.off) = some k)
    (hskip : skipSync b n k = j) (hb : b j = 0x52) (hdecode : decodeGroups b j 2 = (h, true))
    (hs : (h.getD 2 0).toNat = s) (hlt : s < nSectors) (htrack : h.getD 3 0 = trackNum)
    (hunseen : sc.seen.getD s true = false) :
    scanTurn b n trackNum nSectors sc
      = some (if h.getD 0 0 ≠ 0x08 then sc.report s codeHeaderNotFound (j + 10)
          else if xorBytes ((h.drop 1).take 5) ≠ 0 then sc.report s codeHeaderCrc (j + 10)
          else scanData b n s j sc) := by
  rw [scanTurn, hsync]
  dsimp only
  rw [hskip, if_neg (not_not.2 hb), hdecode]
  dsimp only
  rw [hs, if_pos ⟨rfl, hlt, htrack, hunseen⟩]
  split
  · rfl
  split <;> rfl

end

/-! #### The turns of one sector -/

section
variable {p : Params} {t : Tbm} {b : Nat → Byte} {n nSectors k : Nat} {trackNum : Byte} {sc : Scan} {xs rest : List Byte}

theorem dataPart_append_ne_nil : dataPart p t nSectors k ++ rest ≠ [] := by
  have hlen := dataGroups_length (sectorData_length t k) (t.bad.read k)
  intro hnil
  rw [dataPart, List.append_assoc] at hnil
  rw [(List.append_eq_nil_iff.1 hnil).1] at hlen
  cases hlen

theorem dataPart_append_getD_zero :
    (dataPart p t nSectors k ++ rest).getD 0 0 = (dataGroups (t.bad.read k) (sectorData t k)).getD 0 0 := by
  have hlen := dataGroups_length (sectorData_length t k) (t.bad.read k)
  rw [dataPart, List.append_assoc, List.getD_append _ _ _ _ (by omega)]

theorem dataPart_append_first_ne : (dataPart p t nSectors k ++ rest).getD 0 0 ≠ 0xFF := by
  rw [dataPart_append_getD_zero]
  intro hff
  exact absurd (place_of_dataGroups_eq_FF hff) (by decide)

/-- A data block whose header was not read is passed over. -/
theorem turn_of_dataPart (h4 : t.bad.read k ≠ codeDataNotFound) (hx : SyncFree xs)
    (h : Ahead b n sc.off (xs ++ (syncRun ++ (dataPart p t nSectors k ++ rest)))) :
    ∃ j, Turn b n trackNum nSectors sc { sc with off := j } ∧ Ahead b n j (dataPart p t nSectors k ++ rest) := by
  obtain ⟨hlt, hsync, -, hskip, hrest⟩ := h.sync hx dataPart_append_ne_nil dataPart_append_first_ne
  have hb : b (sc.off + xs.length + 5) ≠ 0x52 := by
    rw [hrest.first dataPart_append_ne_nil, dataPart_append_getD_zero, dataGroups_first h4]
    decide
  exact ⟨_, ⟨hlt, by show sc.off < sc.off + xs.length + 5; omega, scanTurn_pass hsync hskip hb⟩, hrest⟩

theorem headerPart_append_ne_nil : headerPart t trackNum k ++ rest ≠ [] := by
  intro hnil
  have hlen := headerPart_length t trackNum k
  rw [(List.append_eq_nil_iff.1 hnil).1] at hlen
  cases hlen

theorem headerPart_append_first : (headerPart t trackNum k ++ rest).getD 0 0 = 0x52 := by
  rw [List.getD_append _ _ _ _ (by rw [headerPart_length]; decide)]
  exact headerGroups_first _ _ _ _ _

/-- The header of an unseen sector is read as it was laid out. -/
theorem scanTurn_headerPart (hk : k < nSectors) (hsectors : nSectors ≤ 21) (hunseen : sc.seen.getD k true = false)
    (hx : SyncFree xs) (h : Ahead b n sc.off (xs ++ (syncRun ++ (headerPart t trackNum k ++ rest)))) :
    let j := sc.off + xs.length + 5
    let header := faultHeader (t.bad.read k) (headerBlock t.idCharacter1 t.idCharacter2 (BitVec.ofNat 8 k) trackNum)
    sc.off < n ∧ Ahead b n (j + 10) rest
      ∧ scanTurn b n trackNum nSectors sc
        = some (if header.getD 0 0 ≠ 0x08 then sc.report k codeHeaderNotFound (j + 10)
            else if xorBytes ((header.drop 1).take 5) ≠ 0 then sc.report k codeHeaderCrc (j + 10)
            else scanData b n k j sc) := by
  intro j header
  obtain ⟨hsector, htrack⟩ := faultHeader_fields t.idCharacter1 t.idCharacter2 trackNum (BitVec.ofNat 8 k) (t.bad.read k)
  have hnum : (BitVec.ofNat 8 k).toNat = k := by
    rw [BitVec.toNat_ofNat]
    exact Nat.mod_eq_of_lt (by omega)
  obtain ⟨hlt, hsync, -, hskip, hheader⟩ := h.sync hx headerPart_append_ne_nil (by rw [headerPart_append_first]; decide)
  have hb := (hheader.first headerPart_append_ne_nil).trans headerPart_append_first
  have hdecode : decodeGroups b j 2 = (header, true) :=
    (decodeGroups_of_holdsAt hheader.1.left (headerPart_length t trackNum k)).trans
      (decodeGroupList_headerGroups _ _ _ _ _)
  have hrest := hheader.right
  rw [headerPart_length] at hrest
  exact ⟨hlt, hrest, scanTurn_header hsync hskip hb hdecode (by rw [hsector, hnum]) hk htrack hunseen⟩

/-- A sector with a faulted header is reported at its header (R234). -/
theorem turn_of_faulted_header (he : t.bad.read k = codeHeaderNotFound ∨ t.bad.read k = codeHeaderCrc) (hk : k < nSectors)
    (hsectors : nSectors ≤ 21) (hunseen : sc.seen.getD k true = false) (hx : SyncFree xs)
    (h : Ahead b n sc.off (xs ++ (syncRun ++ (headerPart t trackNum k ++ rest)))) :
    ∃ j, Turn b n trackNum nSectors sc (sc.readBack (t.bad.read k) (sectorData t k) k j) ∧ Ahead b n j rest := by
  obtain ⟨hlt, hrest, hturn⟩ := scanTurn_headerPart hk hsectors hunseen hx h
  refine ⟨_, ⟨hlt, by rw [Scan.readBack_off]; omega, hturn.trans ?_⟩, hrest⟩
  obtain he | he := he
  · rw [he]
    rfl
  · have hheader : ((faultHeader codeHeaderCrc (headerBlock t.idCharacter1 t.idCharacter2 (BitVec.ofNat 8 k) trackNum)).drop
          1).take 5
        = [BitVec.ofNat 8 k ^^^ trackNum ^^^ t.idCharacter2 ^^^ t.idCharacter1 ^^^ 0xFF, BitVec.ofNat 8 k, trackNum,
          t.idCharacter2, t.idCharacter1] := rfl
    rw [he, hheader, xorBytes_header]
    rfl

/-- A sector with a valid header is read in one turn (R235, R236). -/
theorem turn_of_valid_header {gap : Nat} (h2 : t.bad.read k ≠ codeHeaderNotFound) (h3 : t.bad.read k ≠ codeSyncNotFound)
    (h9 : t.bad.read k ≠ codeHeaderCrc) (hk : k < nSectors) (hsectors : nSectors ≤ 21)
    (hunseen : sc.seen.getD k true = false) (hx : SyncFree xs)
    (h : Ahead b n sc.off (xs ++ (syncRun ++ (headerPart t trackNum k ++ (List.replicate gap 0x55
      ++ (syncRun ++ (dataPart p t nSectors k ++ rest))))))) :
    ∃ j, Turn b n trackNum nSectors sc (sc.readBack (t.bad.read k) (sectorData t k) k j)
      ∧ Ahead b n j (List.replicate (tailGap p nSectors) 0x55 ++ rest) := by
  obtain ⟨hlt, hrest, hturn⟩ := scanTurn_headerPart hk hsectors hunseen hx h
  obtain ⟨-, -, hsync, hskip, hdata⟩ := hrest.sync (syncFree_replicate gap) dataPart_append_ne_nil dataPart_append_first_ne
  rw [dataPart, List.append_assoc] at hdata
  have htail := hdata.right
  rw [dataGroups_length (sectorData_length t k)] at htail
  refine ⟨_, ⟨hlt, ?_, hturn.trans ?_⟩, htail⟩
  · rw [Scan.readBack_off]
    omega
  · have hheader : ((headerBlock t.idCharacter1 t.idCharacter2 (BitVec.ofNat 8 k) trackNum).drop 1).take 5
        = [BitVec.ofNat 8 k ^^^ trackNum ^^^ t.idCharacter2 ^^^ t.idCharacter1, BitVec.ofNat 8 k, trackNum,
          t.idCharacter2, t.idCharacter1] := rfl
    have hsum := xorBytes_header 0#8 (BitVec.ofNat 8 k) trackNum t.idCharacter2 t.idCharacter1
    rw [BitVec.xor_zero] at hsum
    rw [faultHeader_of_ne h2 h9, hheader, hsum,
      ← scanData_dataGroups sc (sectorData_length t k) hsync hskip hdata.1.left h2 h3 h9]
    rfl

/-! #### The scan of the sectors in order -/

/-- The scan of a track laid out from `t`, after its first `k` sectors: their codes as R240 says, the others unseen, and
the data of the good ones in place. -/
structure Scan.Upto (t : Tbm) (nSectors : Nat) (d : Memory) (k : Nat) (sc : Scan) : Prop where
  legal : sc.Legal nSectors d
  codes : ∀ i < k, sc.code.getD i 0 = readBackCode (t.bad.read i)
  unseen : ∀ i, k ≤ i → i < nSectors → sc.seen.getD i true = false
  data : ∀ a < 256 * k, readBackCode (t.bad.read (a / 256)) = codeOk → sc.d64.read a = t.d64.read a

variable {d : Memory}

theorem upto_start (t : Tbm) (nSectors : Nat) (d : Memory) : (Scan.start nSectors d).Upto t nSectors d 0 where
  legal := legal_start nSectors d
  codes _ hi := absurd hi (Nat.not_lt_zero _)
  unseen _ _ hi := List.getD_replicate _ hi
  data _ ha := absurd ha (Nat.not_lt_zero _)

theorem Scan.Upto.withOff (h : sc.Upto t nSectors d k) (off : Nat) : Scan.Upto t nSectors d k { sc with off := off } :=
  ⟨h.legal.withOff off, h.codes, h.unseen, h.data⟩

theorem readBackCode_ne_codeOk {e : Byte} (h : injectable e = true) : readBackCode e ≠ codeOk := by
  rw [readBackCode, if_pos h]
  rintro rfl
  cases h

/-- A sector without a sync run before its header stays at the code it started with. -/
theorem Scan.Upto.skip (h : sc.Upto t nSectors d k) (hk : k < nSectors) (h3 : t.bad.read k = codeSyncNotFound) :
    sc.Upto t nSectors d (k + 1) where
  legal := h.legal
  codes i hi := by
    obtain hlt | rfl := Nat.lt_succ_iff_lt_or_eq.1 hi
    · exact h.codes i hlt
    · rw [h.legal.unseen i (h.unseen i (Nat.le_refl i) hk), h3]
      rfl
  unseen i hi := h.unseen i (by omega)
  data a ha hok := by
    by_cases hlt : a < 256 * k
    · exact h.data a hlt hok
    · rw [show a / 256 = k by omega, h3] at hok
      cases hok

/-- A sector that is read back has the code of R240 and, when that is 0x01, its data in place. -/
theorem Scan.Upto.readBack (h : sc.Upto t nSectors d k) (hk : k < nSectors) (off : Nat) :
    (sc.readBack (t.bad.read k) (sectorData t k) k off).Upto t nSectors d (k + 1) := by
  have hunseen := h.unseen k (Nat.le_refl k) hk
  have hlen := h.legal.codes_length
  have hcodes : ∀ i < k + 1, (sc.code.set k (readBackCode (t.bad.read k))).getD i 0 = readBackCode (t.bad.read i) := by
    intro i hi
    rw [getD_set, hlen]
    split
    · next hsame => rw [hsame.1]
    · exact h.codes i (by omega)
  have hrest : ∀ i, k + 1 ≤ i → i < nSectors → (sc.seen.set k true).getD i true = false := by
    intro i hi hlt
    rw [getD_set, if_neg (by omega)]
    exact h.unseen i (by omega) hlt
  unfold Scan.readBack
  split
  · next hinj =>
    have hcode : readBackCode (t.bad.read k) = t.bad.read k := if_pos hinj
    rw [hcode] at hcodes
    refine ⟨h.legal.sectorScanned hk hunseen (.bad off hinj), hcodes, hrest, fun a ha hok => ?_⟩
    by_cases hlt : a < 256 * k
    · exact h.data a hlt hok
    · rw [show a / 256 = k by omega] at hok
      exact absurd hok (readBackCode_ne_codeOk hinj)
  · next hinj =>
    have hcode : readBackCode (t.bad.read k) = codeOk := if_neg hinj
    have hdata := sectorData_length t k
    rw [hcode] at hcodes
    refine ⟨h.legal.sectorScanned hk hunseen (.good off (Nat.le_of_eq hdata)), hcodes, hrest, fun a ha hok => ?_⟩
    rw [Scan.recover, Memory.read_writeBytes, hdata]
    split
    · rw [sectorData, Memory.getD_readBytes _ (by omega), show 256 * k + (a - 256 * k) = a by omega]
    · exact h.data a (by omega) hok

/-- The scan of sector `k`, from bytes without a sync before it to bytes without a sync after it. -/
theorem turns_of_sector (hk : k < nSectors) (hsectors : nSectors ≤ 21) (hsc : sc.Upto t nSectors d k) (hx : SyncFree xs)
    (h : Ahead b n sc.off (xs ++ (sectorOf p t trackNum nSectors k ++ rest))) :
    ∃ sc' ys, Relation.ReflTransGen (Turn b n trackNum nSectors) sc sc' ∧ sc'.Upto t nSectors d (k + 1) ∧ SyncFree ys
      ∧ Ahead b n sc'.off (ys ++ rest) := by
  have hunseen := hsc.unseen k (Nat.le_refl k) hk
  by_cases h3 : t.bad.read k = codeSyncNotFound
  · obtain ⟨as, ha, hsector⟩ := sectorOf_of_no_headerSync h3 p trackNum nSectors
    rw [hsector, List.append_assoc, List.append_assoc, ← List.append_assoc xs] at h
    obtain ⟨j, hturn, hrest⟩ := turn_of_dataPart (trackNum := trackNum) (by rw [h3]; decide) (syncFree_append hx ha) h
    exact ⟨_, _, .single hturn, (hsc.skip hk h3).withOff j, syncFree_dataPart p t nSectors k, hrest⟩
  rw [sectorOf_eq, headerSync_of_ne h3] at h
  simp only [List.append_assoc] at h
  by_cases hbad : t.bad.read k = codeHeaderNotFound ∨ t.bad.read k = codeHeaderCrc
  · have h4 : t.bad.read k ≠ codeDataNotFound := by
      obtain he | he := hbad <;> rw [he] <;> decide
    obtain ⟨j, hturn, hrest⟩ := turn_of_faulted_header hbad hk hsectors hunseen hx h
    rw [← Scan.readBack_off sc (t.bad.read k) (sectorData t k) k j] at hrest
    obtain ⟨j', hturn', hrest'⟩ := turn_of_dataPart (trackNum := trackNum) h4 (syncFree_replicate p.headerGap) hrest
    exact ⟨_, _, .tail (.single hturn) hturn', (hsc.readBack hk j).withOff j', syncFree_dataPart p t nSectors k, hrest'⟩
  · obtain ⟨h2, h9⟩ := not_or.1 hbad
    obtain ⟨j, hturn, hrest⟩ := turn_of_valid_header h2 h3 h9 hk hsectors hunseen hx h
    rw [← Scan.readBack_off sc (t.bad.read k) (sectorData t k) k j] at hrest
    exact ⟨_, _, .single hturn, hsc.readBack hk j, syncFree_replicate _, hrest⟩

/-- The scan of `m` sectors from sector `k` on. -/
theorem turns_of_sectors (hsectors : nSectors ≤ 21) (m : Nat) {k : Nat} {sc : Scan} {xs : List Byte}
    (hkm : k + m = nSectors) (hsc : sc.Upto t nSectors d k) (hx : SyncFree xs)
    (h : Ahead b n sc.off (xs ++ ((List.range' k m).flatMap (sectorOf p t trackNum nSectors) ++ rest))) :
    ∃ sc' ys, Relation.ReflTransGen (Turn b n trackNum nSectors) sc sc' ∧ sc'.Upto t nSectors d nSectors ∧ SyncFree ys
      ∧ Ahead b n sc'.off (ys ++ rest) := by
  induction m generalizing k sc xs with
  | zero =>
    obtain rfl : k = nSectors := hkm
    exact ⟨sc, xs, .refl, hsc, hx, h⟩
  | succ m ih =>
    rw [List.range'_succ, List.flatMap_cons, List.append_assoc] at h
    obtain ⟨sc', ys, hturns, hsc', hy, hrest⟩ := turns_of_sector (by omega) hsectors hsc hx h
    obtain ⟨sc'', zs, hturns', hsc'', hz, hend⟩ := ih (by omega) hsc' hy hrest
    exact ⟨sc'', zs, hturns.trans hturns', hsc'', hz, hend⟩

/-- The whole scan: sectors from `k` on, then bytes without a sync. -/
theorem scanTrack_upto (hsectors : nSectors ≤ 21) {m : Nat} (hkm : k + m = nSectors) (hsc : sc.Upto t nSectors d k)
    (hx : SyncFree xs) (hrest : SyncFree rest)
    (h : Ahead b n sc.off (xs ++ ((List.range' k m).flatMap (sectorOf p t trackNum nSectors) ++ rest))) :
    ∃ sc', Relation.ReflTransGen (Turn b n trackNum nSectors) sc sc' ∧ sc'.Upto t nSectors d nSectors
      ∧ ∀ fuel, scanTrack b n trackNum nSectors fuel sc' = sc' := by
  obtain ⟨sc', ys, hturns, hsc', hy, hend⟩ := turns_of_sectors hsectors m hkm hsc hx h
  exact ⟨sc', hturns, hsc', scanTrack_of_syncFree hend (syncFree_append hy hrest)⟩

end

end Sys2Proof.Machine

/-! ### The track round trip (40_gcr_codec.md R240)

The scan starts at the first sync run of the track. That is the header sync of sector 0, or its data sync when code 0x03
took the header sync away; the header of sector 0 then comes last, as bytes without a sync. -/

namespace Sys2Proof.Machine

/-! #### The circular track -/

theorem holdsAt_circular (as bs : List Byte) :
    HoldsAt (circular (as ++ bs).toArray (as ++ bs).length as.length) 0 (bs ++ as) := by
  intro i hi
  simp only [List.length_append] at hi ⊢
  have hget : ∀ j, (as ++ bs).toArray.getD j 0 = (as ++ bs).getD j 0 := fun j => by
    simp [Array.getD_eq_getD_getElem?, List.getD_eq_getElem?_getD]
  rw [circular, hget, Nat.zero_add]
  by_cases hlt : i < bs.length
  · rw [Nat.mod_eq_of_lt (by omega), List.getD_append_right _ _ _ _ (by omega), List.getD_append _ _ _ _ hlt,
      Nat.add_sub_cancel_left]
  · have hwrap : (as.length + i) % (as.length + bs.length) = i - bs.length := by
      rw [show as.length + i = i - bs.length + (as.length + bs.length) by omega, Nat.add_mod_right]
      exact Nat.mod_eq_of_lt (by omega)
    rw [hwrap, List.getD_append _ _ _ _ (by omega), List.getD_append_right _ _ _ _ (by omega)]

theorem ahead_circular (as bs : List Byte) :
    Ahead (circular (as ++ bs).toArray (as ++ bs).length as.length) (as ++ bs).length 0 (bs ++ as) :=
  ⟨holdsAt_circular as bs, by simp only [List.length_append]; omega⟩

theorem circular_zero_add (g : Array Byte) (n f i : Nat) : circular g n 0 (f + i) = circular g n f i := by
  rw [circular, circular, Nat.zero_add]

/-- The first sync run follows bytes without one, when the byte before it, round the track, is not 0xFF. -/
theorem firstSyncPos_append {as bs : List Byte} (ha : SyncFree as) (hend : EndsClear (syncRun ++ bs ++ as)) :
    firstSyncPos (as ++ (syncRun ++ bs)).toArray (as ++ (syncRun ++ bs)).length = some as.length := by
  obtain ⟨hrot, hlen⟩ := ahead_circular as (syncRun ++ bs)
  have hflat : HoldsAt (circular (as ++ (syncRun ++ bs)).toArray (as ++ (syncRun ++ bs)).length 0) 0
      (as ++ (syncRun ++ bs)) := by
    simpa only [List.nil_append, List.length_nil, List.append_nil] using holdsAt_circular [] (as ++ (syncRun ++ bs))
  have hpos : as.length < (as ++ (syncRun ++ bs)).length := by
    simp only [List.length_append, syncRun_length]
    omega
  rw [Nat.zero_add] at hlen
  generalize (as ++ (syncRun ++ bs)).length = n at *
  have hsync := isSync_of_syncRun hflat.right.left
  rw [Nat.zero_add] at hsync
  have hclear : circular (as ++ (syncRun ++ bs)).toArray n 0 (as.length + n - 1) ≠ 0xFF := by
    have hlast := hrot (n - 1) (by omega)
    rw [Nat.zero_add] at hlast
    rw [Nat.add_sub_assoc (by omega), circular_zero_add, hlast, ← hlen]
    exact hend.getD_last (List.ne_nil_of_length_pos (by omega))
  refine findFrom_eq_some (Nat.zero_le _) (by omega) ?_ fun j _ hj => ?_
  · rw [Bool.and_eq_true, bne_iff_ne]
    exact ⟨hsync, hclear⟩
  · have hfree := isSync_of_syncFree hflat.left ha hj
    rw [Nat.zero_add, isSync] at hfree
    rw [hfree, Bool.false_and]

/-! #### The encoded track -/

theorem endsClear_append_dataPart (xs : List Byte) (p : Params) (t : Tbm) (nSectors k : Nat) :
    EndsClear (xs ++ dataPart p t nSectors k) := by
  refine endsClear_append_right _ ?_ (syncFree_dataPart p t nSectors k).endsClear
  simpa only [List.append_nil] using dataPart_append_ne_nil (p := p) (t := t) (nSectors := nSectors) (k := k) (rest := [])

theorem endsClear_sectorOf (p : Params) (t : Tbm) (trackNum : Byte) (nSectors k : Nat) :
    EndsClear (sectorOf p t trackNum nSectors k) := by
  rw [sectorOf_eq, ← List.append_assoc, ← List.append_assoc, ← List.append_assoc]
  exact endsClear_append_dataPart _ p t nSectors k

theorem trackBytes_of_le {p : Params} {t : Tbm} {trackNum : Byte} {nSectors nBytes : Nat}
    (h : (trackLayout p t trackNum nSectors).length ≤ nBytes) :
    trackBytes p t trackNum nSectors nBytes
      = trackLayout p t trackNum nSectors ++ List.replicate (nBytes - (trackLayout p t trackNum nSectors).length) 0x55 := by
  rw [trackBytes, List.take_of_length_le h]

theorem trackLayout_of_pos {nSectors : Nat} (h : 0 < nSectors) (p : Params) (t : Tbm) (trackNum : Byte) :
    trackLayout p t trackNum nSectors
      = sectorOf p t trackNum nSectors 0 ++ (List.range' 1 (nSectors - 1)).flatMap (sectorOf p t trackNum nSectors) := by
  have hrange : List.range' 0 nSectors = 0 :: List.range' 1 (nSectors - 1) := by
    conv_lhs => rw [← Nat.sub_add_cancel h, List.range'_succ]
  rw [trackLayout_eq, List.range_eq_range', ← List.flatMap_cons, hrange]

/-- A track that stands as bytes without a sync, a first sync run, and the sectors after it, is scanned from that run. -/
theorem scanned_of_bytes {t : Tbm} {as bs : List Byte} {nBytes : Nat}
    (hbytes : t.gcr.readBytes 0 nBytes = as ++ (syncRun ++ bs))
    (ha : SyncFree as) (hend : EndsClear (syncRun ++ bs ++ as)) (trackNum : Byte) (nSectors : Nat) :
    ∃ b, Ahead b nBytes 0 (syncRun ++ bs ++ as)
      ∧ scanned trackNum nSectors nBytes t = scanTrack b nBytes trackNum nSectors nBytes (Scan.start nSectors t.d64) := by
  have hlen : (as ++ (syncRun ++ bs)).length = nBytes := by
    rw [← hbytes, Memory.readBytes_length]
  have hfirst := firstSyncPos_append ha hend
  have hahead := ahead_circular as (syncRun ++ bs)
  rw [hlen] at hfirst hahead
  refine ⟨_, hahead, ?_⟩
  unfold scanned
  dsimp only
  rw [hbytes, hfirst]

section
variable {p : Params} {t x : Tbm} {trackNum : Byte} {nSectors nBytes : Nat} {pad : List Byte}

/-- The scan of a track whose first sync run heads sector 0. -/
theorem scanned_upto_of_headerSync (hsectors : nSectors ≤ 21) (hpos : 0 < nSectors)
    (h3 : t.bad.read 0 ≠ codeSyncNotFound) (hpad : SyncFree pad)
    (hbytes : x.gcr.readBytes 0 nBytes = trackLayout p t trackNum nSectors ++ pad) :
    (scanned trackNum nSectors nBytes x).Upto t nSectors x.d64 nSectors := by
  obtain ⟨bs, hbs⟩ : ∃ bs, trackLayout p t trackNum nSectors ++ pad = syncRun ++ bs := by
    rw [trackLayout_of_pos hpos, sectorOf_eq, headerSync_of_ne h3]
    simp only [List.append_assoc]
    exact ⟨_, rfl⟩
  have hend : EndsClear (syncRun ++ bs ++ []) := by
    rw [List.append_nil, ← hbs]
    exact endsClear_append (endsClear_flatMap (endsClear_sectorOf p t trackNum nSectors) _) hpad.endsClear
  obtain ⟨b, hahead, hscan⟩ := scanned_of_bytes (hbytes.trans hbs) syncFree_nil hend trackNum nSectors
  rw [List.append_nil, ← hbs, trackLayout_eq, List.range_eq_range'] at hahead
  obtain ⟨sc, hturns, hsc, hdone⟩ := scanTrack_upto hsectors (Nat.zero_add nSectors) (upto_start t nSectors x.d64)
    syncFree_nil hpad hahead
  rw [hscan, scanTrack_of_turns hturns hdone (Nat.le_add_left _ _)]
  exact hsc

/-- The scan of a track whose sector 0 has no header sync: it starts at that sector's data. -/
theorem scanned_upto_of_no_headerSync (hsectors : nSectors ≤ 21) (hpos : 0 < nSectors)
    (h3 : t.bad.read 0 = codeSyncNotFound) (hpad : SyncFree pad)
    (hbytes : x.gcr.readBytes 0 nBytes = trackLayout p t trackNum nSectors ++ pad) :
    (scanned trackNum nSectors nBytes x).Upto t nSectors x.d64 nSectors := by
  obtain ⟨as, ha, hsector⟩ := sectorOf_of_no_headerSync h3 p trackNum nSectors
  have hends := endsClear_flatMap (endsClear_sectorOf p t trackNum nSectors) (List.range' 1 (nSectors - 1))
  rw [trackLayout_of_pos hpos, hsector] at hbytes
  simp only [List.append_assoc] at hbytes
  generalize hrest : (List.range' 1 (nSectors - 1)).flatMap (sectorOf p t trackNum nSectors) = sectors at hbytes hends
  have hend : EndsClear (syncRun ++ (dataPart p t nSectors 0 ++ (sectors ++ pad)) ++ as) := by
    rw [← List.append_assoc]
    exact endsClear_append (endsClear_append (endsClear_append_dataPart _ p t nSectors 0)
      (endsClear_append hends hpad.endsClear)) ha.endsClear
  obtain ⟨b, hahead, hscan⟩ := scanned_of_bytes hbytes ha hend trackNum nSectors
  simp only [List.append_assoc] at hahead
  have hstart := upto_start t nSectors x.d64
  obtain ⟨j, hturn, hahead'⟩ := turn_of_dataPart (sc := Scan.start nSectors x.d64) (trackNum := trackNum)
    (by rw [h3]; decide) syncFree_nil hahead
  rw [← hrest] at hahead'
  obtain ⟨sc, hturns, hsc, hdone⟩ := scanTrack_upto hsectors (k := 1) (m := nSectors - 1) (by omega)
    ((hstart.skip hpos h3).withOff j) (syncFree_dataPart p t nSectors 0) (syncFree_append hpad ha) hahead'
  rw [hscan, scanTrack_of_turns (.head hturn hturns) hdone (Nat.le_add_left _ _)]
  exact hsc

/-- The scan of an encoded track, over any D64 buffer, reads back every sector. -/
theorem scanned_upto (hsectors : nSectors ≤ 21) (hlayout : (trackLayout p t trackNum nSectors).length ≤ nBytes)
    (hbytes : x.gcr.readBytes 0 nBytes = trackBytes p t trackNum nSectors nBytes) :
    (scanned trackNum nSectors nBytes x).Upto t nSectors x.d64 nSectors := by
  rw [trackBytes_of_le hlayout] at hbytes
  obtain rfl | hpos := Nat.eq_zero_or_pos nSectors
  · exact ⟨legal_scanned _ _ _ _, fun _ hi => absurd hi (Nat.not_lt_zero _), fun _ _ hi => absurd hi (Nat.not_lt_zero _),
      fun _ ha => absurd ha (Nat.not_lt_zero _)⟩
  by_cases h3 : t.bad.read 0 = codeSyncNotFound
  · exact scanned_upto_of_no_headerSync hsectors hpos h3 (syncFree_replicate _) hbytes
  · exact scanned_upto_of_headerSync hsectors hpos h3 (syncFree_replicate _) hbytes

end

/-! #### Encoding and decoding -/

theorem Memory.readBytes_writeBytes (m : Memory) (a : Nat) (bs : List Byte) :
    (m.writeBytes a bs).readBytes a bs.length = bs := by
  rw [Memory.readBytes_eq]
  refine List.ext_getElem (by simp) fun i hi hi' => ?_
  rw [List.getElem_map, List.getElem_range, Memory.read_writeBytes, if_pos (by omega), Nat.add_sub_cancel_left,
    List.getD_eq_getElem _ _ hi']

theorem readBackCode_eq_codeOk_iff (e : Byte) : (readBackCode e == codeOk) = !injectable e := by
  cases h : injectable e with
  | true => exact beq_eq_false_iff_ne.2 (readBackCode_ne_codeOk h)
  | false =>
    have hcode : readBackCode e = codeOk := if_neg (by rw [h]; decide)
    rw [hcode]
    rfl

section
variable {t : Tbm} {nSectors : Nat} {d : Memory} {sc : Scan}

theorem Scan.Upto.code_eq (h : sc.Upto t nSectors d nSectors) :
    sc.code = (List.range nSectors).map fun k => readBackCode (t.bad.read k) := by
  have hlen := h.legal.codes_length
  refine List.ext_getElem (by simp [hlen]) fun i hi hi' => ?_
  rw [List.getElem_map, List.getElem_range, ← h.codes i (by omega), List.getD_eq_getElem _ _ hi]

theorem Scan.Upto.count_eq (h : sc.Upto t nSectors d nSectors) :
    sc.count = (List.range nSectors).countP fun k => !injectable (t.bad.read k) := by
  rw [h.legal.count, h.code_eq, List.countP_map]
  exact congrArg (fun q => (List.range nSectors).countP q) (funext fun k => readBackCode_eq_codeOk_iff _)

theorem Scan.Upto.read_codes (h : sc.Upto t nSectors d nSectors) (bad : Memory) {k : Nat} (hk : k < nSectors) :
    (bad.writeBytes 0 sc.code).read k = readBackCode (t.bad.read k) := by
  rw [Memory.read_writeBytes, h.legal.codes_length, if_pos (by omega), Nat.sub_zero, h.codes k hk]

theorem Scan.Upto.read_d64 (h : sc.Upto t nSectors d nSectors) (a : Nat) :
    sc.d64.read a
      = if a < 256 * nSectors ∧ readBackCode (t.bad.read (a / 256)) = codeOk then t.d64.read a else d.read a := by
  split
  · next hgood => exact h.data a hgood.1 hgood.2
  · next hother =>
    refine h.legal.data a ?_
    by_cases ha : a < 256 * nSectors
    · refine .inr fun hok => hother ⟨ha, ?_⟩
      rwa [h.codes (a / 256) (by omega)] at hok
    · exact .inl (by omega)

end

/-- Settles O16: the bytes encoded are the bytes scanned, and the scan of a whole track says what is read back. -/
theorem gcrTrackRoundTrip : Obligations.GcrTrackRoundTrip := by
  intro trackNum nSectors nBytes s hsectors hbytes hlayout
  have hdomain := trackDomain_iff.2 ⟨hsectors, hbytes⟩
  rw [← trackLayout_length s.params s.tbm trackNum] at hlayout
  rw [exec_gcrEncodeTrack, encodeTrack_of_domain hdomain]
  refine ⟨_, rfl, rfl, fun d => ?_⟩
  have hread : (s.tbm.gcr.writeBytes 0 (trackBytes s.params s.tbm trackNum nSectors nBytes)).readBytes 0 nBytes
      = trackBytes s.params s.tbm trackNum nSectors nBytes := by
    have hback := Memory.readBytes_writeBytes s.tbm.gcr 0 (trackBytes s.params s.tbm trackNum nSectors nBytes)
    rwa [trackBytes_length] at hback
  have hscan := scanned_upto
    (x := { s.tbm with
      gcr := s.tbm.gcr.writeBytes 0 (trackBytes s.params s.tbm trackNum nSectors nBytes)
      d64 := d }) hsectors hlayout hread
  rw [exec_gcrDecodeTrack, decodeTrack_of_domain hdomain]
  exact ⟨_, rfl, congrArg Result.count hscan.count_eq, fun k hk => hscan.read_codes _ hk, hscan.read_d64⟩

end Sys2Proof.Machine

/-! ### The track buffer manager: its ports and the flush

What each meaning answers, when a flush writes nothing, and what a write-back leaves in the stores (41_track_buffer.md
R252 to R254, R262 to R267). -/

namespace Sys2Proof.Machine

/-! #### What the operations answer -/

theorem exec_setImageFile (file : Option Nat) (ro : Bool) (s : State) :
    exec (.setImageFile file ro) s = .next (finish (fun _ => .none) (setImageFile file ro s)) := rfl

theorem exec_readTrack (n : Int) (s : State) :
    exec (.readTrack n) s = .next ((readTrack n s).2.returns (.bool (readTrack n s).1)) := rfl

theorem exec_flushTrack (n : Int) (s : State) : exec (.flushTrack n) s = .next (finish .bool (flushTrack n s)) := rfl

theorem exec_setCurrentTrack (n : Int) (s : State) :
    exec (.setCurrentTrack n) s = .next ((setCurrentTrack n s).2.returns (.bool (setCurrentTrack n s).1)) := rfl

theorem exec_gcrReadByte (i : Nat) (s : State) :
    exec (.gcrReadByte i) s
      = .next (s.returns (.byte (if trackSize s.params s.tbm.currentTrack.toNat = 0 then 0x00
          else s.tbm.gcr.read (i % trackSize s.params s.tbm.currentTrack.toNat)))) := rfl

theorem exec_gcrWriteByte_of_no_track (i : Nat) (v : Byte) {s : State}
    (h : trackSize s.params s.tbm.currentTrack.toNat = 0) :
    exec (.gcrWriteByte i v) s = .next (s.returns .none) := if_pos h

theorem exec_gcrWriteByte_of_track (i : Nat) (v : Byte) {s : State}
    (h : trackSize s.params s.tbm.currentTrack.toNat ≠ 0) :
    exec (.gcrWriteByte i v) s
      = .next ((s.setTbm { s.tbm with
          gcr := s.tbm.gcr.write (i % trackSize s.params s.tbm.currentTrack.toNat) v, trackDirtyFlag := true }).returns
            .none) := if_neg h

theorem exec_getTrackInfo (s : State) :
    exec .getTrackInfo s
      = .next (s.returns (.trackInfo s.tbm.currentTrack (trackSize s.params s.tbm.currentTrack.toNat)
          (sectorsPerTrack s.params s.tbm.currentTrack.toNat) s.tbm.readOnly)) := rfl

theorem exec_setSectorErrorCode_of_lt {i : Nat} (h : i < badTableLen) (v : Byte) (s : State) :
    exec (.setSectorErrorCode i v) s = .next ((s.setTbm { s.tbm with bad := s.tbm.bad.write i v }).returns .none) := if_pos h

theorem exec_setSectorErrorCode_of_le {i : Nat} (h : badTableLen ≤ i) (v : Byte) (s : State) :
    exec (.setSectorErrorCode i v) s = .next (s.returns .none) := if_neg (Nat.not_lt.2 h)

theorem exec_getSectorErrorCode (i : Nat) (s : State) :
    exec (.getSectorErrorCode i) s = .next (s.returns (.byte (if i < badTableLen then s.tbm.bad.read i else 0x00))) := rfl

theorem exec_closeD64 (s : State) :
    exec .closeD64 s
      = .next (((flushTrack (-1) s).2.setTbm
          ((flushTrack (-1) s).2.tbm.detached (flushTrack (-1) s).2.params)).returns .none) := rfl

/-- Settles O17: each port by what it answers with a track or without, and within the table or past it. -/
theorem tbmPorts : Obligations.TbmPorts := by
  intro s i v n
  refine ⟨exec_gcrReadByte i s, fun hn => exec_gcrWriteByte_of_no_track i v hn,
    fun hn => ⟨s.tbm.gcr.write (i % n) v, exec_gcrWriteByte_of_track i v hn, fun a => Memory.read_write _ _ a v⟩,
    exec_getTrackInfo s,
    fun hi => ⟨s.tbm.bad.write i v, exec_setSectorErrorCode_of_lt hi v s, fun a => Memory.read_write _ _ a v⟩,
    fun hi => exec_setSectorErrorCode_of_le hi v s, fun hi => ?_, fun hi => ?_⟩
  · rw [exec_getSectorErrorCode, if_pos (show i < badTableLen from hi)]
    rfl
  · rw [exec_getSectorErrorCode, if_neg (show ¬ i < badTableLen from Nat.not_lt.2 hi)]
    rfl

/-! #### When a flush writes nothing (41_track_buffer.md R253) -/

variable {s : State}

theorem trackArg_eq_current_iff {n : Int} {cur : Byte} : trackArg n cur = cur.toNat ↔ n = -1 ∨ n = cur.toNat := by
  unfold trackArg
  split
  · next h => simp [h]
  · next h => simp [h]

theorem inImage_iff {t : Tbm} {track : Int} : inImage t track = true ↔ 1 ≤ track ∧ track ≤ t.nTracks.toNat := by
  simp [inImage]

theorem flushTrack_of_other {n : Int} (h : ¬ (n = -1 ∨ n = s.tbm.currentTrack.toNat)) :
    flushTrack n s = (.ok true, s) := if_pos (mt trackArg_eq_current_iff.1 h)

theorem flushTrack_of_not_dirty (n : Int) (h : s.tbm.trackDirtyFlag = false) : flushTrack n s = (.ok true, s) := by
  unfold flushTrack
  dsimp only
  rw [if_pos h, ite_self]

/-- An image whose current track a flush may write: attached, writable, with that track in it. -/
def Tbm.Writable (t : Tbm) (id : Nat) : Prop :=
  t.imageFile = some id ∧ t.readOnly = false ∧ inImage t t.currentTrack.toNat = true

theorem flushTrack_of_not_writable {n : Int} (hn : n = -1 ∨ n = s.tbm.currentTrack.toNat)
    (hdirty : s.tbm.trackDirtyFlag = true) (h : ∀ id, ¬ s.tbm.Writable id) :
    flushTrack n s = (.ok true, s.setTbm { s.tbm with trackDirtyFlag := false }) := by
  unfold flushTrack
  dsimp only
  rw [if_neg (not_not.2 (trackArg_eq_current_iff.2 hn)), if_neg (by rw [hdirty]; decide)]
  split
  · rfl
  · next id hid =>
    rw [if_pos]
    by_contra hwritable
    rw [Bool.not_eq_true, Bool.or_eq_false_iff, Bool.not_eq_false'] at hwritable
    exact h id ⟨hid, hwritable⟩

/-- Settles O19: another track, a clean track, and a dirty track of no image that may be written. -/
theorem flushTrackKeeps : Obligations.FlushTrackKeeps := by
  intro s n
  refine ⟨fun hne hcur => ?_, fun hclean => ?_, fun hn hdirty himage => ?_⟩
  · rw [exec_flushTrack, flushTrack_of_other (not_or.2 ⟨hne, hcur⟩)]
    rfl
  · rw [exec_flushTrack, flushTrack_of_not_dirty n hclean]
    rfl
  · have hunwritable : ∀ id, ¬ s.tbm.Writable id := by
      rintro id ⟨hid, hro, hin⟩
      rw [inImage_iff] at hin
      simp only [hro, hid, Bool.false_eq_true, reduceCtorEq, false_or] at himage
      omega
    rw [exec_flushTrack, flushTrack_of_not_writable hn hdirty hunwritable]
    rfl

/-! #### The flush of a dirty track (41_track_buffer.md R252, R254) -/

/-- The decode of the current track, with its count. -/
def State.decoded (s : State) : Nat × Tbm :=
  decodeTrack s.tbm.currentTrack (sectorsPerTrack s.params s.tbm.currentTrack.toNat)
    (trackSize s.params s.tbm.currentTrack.toNat) s.tbm

/-- The state with the current track decoded and the dirty flag cleared. -/
def State.flushed (s : State) : State := s.setTbm { s.decoded.2 with trackDirtyFlag := false }

/-- The decoder does not look at the dirty flag. -/
theorem decodeTrack_setDirty (k : Byte) (n m : Nat) (t : Tbm) (b : Bool) :
    decodeTrack k n m { t with trackDirtyFlag := b }
      = ((decodeTrack k n m t).1, { (decodeTrack k n m t).2 with trackDirtyFlag := b }) := by
  unfold decodeTrack
  split <;> rfl

theorem flushTrack_of_writable {n : Int} {id : Nat} (hn : n = -1 ∨ n = s.tbm.currentTrack.toNat)
    (hdirty : s.tbm.trackDirtyFlag = true) (h : s.tbm.Writable id) :
    flushTrack n s
      = if s.decoded.1 = 0 then (.ok true, s.flushed) else writeTrack id s.tbm.currentTrack.toNat s.flushed := by
  obtain ⟨hid, hro, hin⟩ := h
  unfold flushTrack
  dsimp only
  rw [if_neg (not_not.2 (trackArg_eq_current_iff.2 hn)), if_neg (by rw [hdirty]; decide)]
  split
  · next hnone =>
    rw [hid] at hnone
    cases hnone
  · next id' hid' =>
    obtain rfl : id = id' := Option.some.inj (hid.symm.trans hid')
    rw [if_neg (by rw [hro, hin]; decide), State.setTbm_tbm, decodeTrack_setDirty]
    rfl

theorem flushTrack_of_no_sector {n : Int} {id : Nat} (hn : n = -1 ∨ n = s.tbm.currentTrack.toNat)
    (hdirty : s.tbm.trackDirtyFlag = true) (h : s.tbm.Writable id) (hcount : s.decoded.1 = 0) :
    flushTrack n s = (.ok true, s.flushed) := by
  rw [flushTrack_of_writable hn hdirty h, if_pos hcount]

theorem flushTrack_of_sectors {n : Int} {id : Nat} (hn : n = -1 ∨ n = s.tbm.currentTrack.toNat)
    (hdirty : s.tbm.trackDirtyFlag = true) (h : s.tbm.Writable id) (hcount : s.decoded.1 ≠ 0) :
    flushTrack n s = writeTrack id s.tbm.currentTrack.toNat s.flushed := by
  rw [flushTrack_of_writable hn hdirty h, if_neg hcount]

theorem State.flushed_tbm (s : State) :
    ∃ d b, s.flushed.tbm = { s.tbm with d64 := d, bad := b, trackDirtyFlag := false } := by
  obtain ⟨d, b, h⟩ := decodeTrack_frame s.tbm.currentTrack (sectorsPerTrack s.params s.tbm.currentTrack.toNat)
    (trackSize s.params s.tbm.currentTrack.toNat) s.tbm
  exact ⟨d, b, by rw [State.flushed, State.decoded, h]; rfl⟩

/-! #### The write-back -/

/-- The state a good write of the first `n` bytes of `m` to place `off` of store `id` leaves. -/
def State.written (s : State) (id off : Nat) (m : Memory) (n : Nat) : State :=
  s.ioNext.putStore id ((s.store id).write off (m.readBytes 0 n))

theorem State.written_keepsBlocks (s : State) (id off : Nat) (m : Memory) (n : Nat) :
    KeepsBlocks s (s.written id off m n) := keepsBlocks_ioNext_putStore s _ _

theorem State.written_store_of_ne {id x : Nat} (h : x ≠ id) (off : Nat) (m : Memory) (n : Nat) :
    (s.written id off m n).store x = s.store x := by
  rw [State.written, State.putStore_store, if_neg h, State.ioNext_store]

theorem State.written_byteAt (s : State) (id off : Nat) (m : Memory) (n x a : Nat) :
    (s.written id off m n).byteAt x a
      = if x = id ∧ off ≤ a ∧ a < off + n then m.read (a - off) else s.byteAt x a := by
  unfold State.byteAt
  by_cases hx : x = id
  · subst hx
    rw [State.written, State.putStore_store, if_pos rfl, Store.read_write, Memory.readBytes_length]
    simp only [true_and]
    split
    · next ha => rw [Memory.getD_readBytes _ (by omega), Nat.zero_add]
    · rfl
  · rw [State.written_store_of_ne hx, if_neg (fun h => hx h.1)]

theorem memWrite_readBytes_of_noFailure {n : Nat} (h : s.noFailure (n + 1)) (id off : Nat) (m : Memory) (k : Nat) :
    memWrite id off (m.readBytes 0 k) s = (false, s.written id off m k) := memWrite_of_noFailure h _ _ _

/-- The offset of the codes of track `track` in the error table (20_memory.md R82). -/
def State.codesOffset (s : State) (track : Nat) : Nat := errBase s.params s.tbm + trackOffset s.params track / 256

/-- The state once the sectors of TBM's buffer are written back as those of track `track`. -/
def State.sectorsWritten (s : State) (id track : Nat) : State :=
  s.written id (trackOffset s.params track) s.tbm.d64 (256 * sectorsPerTrack s.params track)

/-- The state once the codes are, too. -/
def State.codesWritten (s : State) (id track : Nat) : State :=
  (s.sectorsWritten id track).written id (s.codesOffset track) s.tbm.bad (sectorsPerTrack s.params track)

theorem writeTrack_of_fails (h : s.nextFails) (id track : Nat) : writeTrack id track s = (.error .write, s.ioNext) := by
  unfold writeTrack
  dsimp only
  rw [memWrite_of_fails h]
  rfl

theorem writeTrack_of_no_table (h : s.noFailure 1) (htable : s.tbm.hasErrorTable = false) (id track : Nat) :
    writeTrack id track s = (.ok true, s.sectorsWritten id track) := by
  unfold writeTrack
  dsimp only
  rw [memWrite_readBytes_of_noFailure h, htable]
  rfl

theorem writeTrack_of_table (h : s.noFailure 2) (htable : s.tbm.hasErrorTable = true) (id track : Nat) :
    writeTrack id track s = (.ok true, s.codesWritten id track) := by
  obtain ⟨hsectors, hcodes, -⟩ := h
  have hcodes : (s.sectorsWritten id track).noFailure 1 := ⟨hcodes, trivial⟩
  unfold writeTrack
  dsimp only
  rw [memWrite_readBytes_of_noFailure (n := 0) ⟨hsectors, trivial⟩, htable]
  exact congrArg (fun e : Bool × State => if e.1 then (Except.error IoError.write, e.2) else (Except.ok true, e.2))
    (memWrite_readBytes_of_noFailure hcodes id (s.codesOffset track) s.tbm.bad (sectorsPerTrack s.params track))

theorem writeTrack_of_codes_fail (h : s.noFailure 1) (htable : s.tbm.hasErrorTable = true) (hfails : s.ioNext.nextFails)
    (id track : Nat) : writeTrack id track s = (.error .write, (s.sectorsWritten id track).ioNext) := by
  have hcodes : (s.sectorsWritten id track).nextFails := hfails
  unfold writeTrack
  dsimp only
  rw [memWrite_readBytes_of_noFailure h, htable]
  exact congrArg (fun e : Bool × State => if e.1 then (Except.error IoError.write, e.2) else (Except.ok true, e.2))
    (memWrite_of_fails hcodes id (s.codesOffset track) (s.tbm.bad.readBytes 0 (sectorsPerTrack s.params track)))

/-! #### Draws under updates of TBM and of the result -/

theorem State.setTbm_ioNext (s : State) (t : Tbm) : (s.setTbm t).ioNext = s.ioNext.setTbm t := by
  unfold State.ioNext
  rw [State.setTbm_ioScript]
  split <;> rfl

theorem State.returns_ioNext (s : State) (r : Result) : (s.returns r).ioNext = s.ioNext.returns r := by
  unfold State.ioNext
  rw [State.returns_ioScript]
  split <;> rfl

theorem State.setTbm_noFailure (s : State) (t : Tbm) (n : Nat) : (s.setTbm t).noFailure n ↔ s.noFailure n := by
  induction n generalizing s with
  | zero => exact Iff.rfl
  | succ n ih => rw [State.noFailure, State.noFailure, State.setTbm_ioFails, State.setTbm_ioNext, ih]

/-! #### Where the write-back goes -/

theorem State.flushed_noFailure (s : State) (n : Nat) : s.flushed.noFailure n ↔ s.noFailure n := s.setTbm_noFailure _ n

theorem State.flushed_ioNext (s : State) : s.flushed.ioNext = s.ioNext.setTbm s.flushed.tbm := s.setTbm_ioNext _

theorem State.flushed_hasErrorTable (s : State) : s.flushed.tbm.hasErrorTable = s.tbm.hasErrorTable := by
  obtain ⟨d, b, h⟩ := s.flushed_tbm
  rw [h]

theorem State.flushed_codesOffset (s : State) (track : Nat) : s.flushed.codesOffset track = s.codesOffset track := by
  obtain ⟨d, b, h⟩ := s.flushed_tbm
  rw [State.codesOffset, h]
  rfl

/-- The error table begins after the sectors of every track of the image. -/
theorem State.sectors_le_codesOffset {track : Nat} (h : track ≤ s.tbm.nTracks.toNat) :
    trackOffset s.params track + 256 * sectorsPerTrack s.params track ≤ s.codesOffset track :=
  Nat.le_trans (trackOffset_mono s.params (Nat.succ_le_succ h)) (Nat.le_add_right _ _)

theorem KeepsBlocks.tbm {t : State} (h : KeepsBlocks s t) : t.tbm = s.tbm := by
  obtain ⟨-, -, ht, -⟩ := h
  exact ht

theorem State.sectorsWritten_keepsBlocks (s : State) (id track : Nat) : KeepsBlocks s (s.sectorsWritten id track) :=
  s.written_keepsBlocks _ _ _ _

theorem State.codesWritten_keepsBlocks (s : State) (id track : Nat) : KeepsBlocks s (s.codesWritten id track) :=
  (s.sectorsWritten_keepsBlocks id track).trans (State.written_keepsBlocks _ _ _ _ _)

theorem State.sectorsWritten_store_of_ne {id x : Nat} (h : x ≠ id) (track : Nat) :
    (s.sectorsWritten id track).store x = s.store x := State.written_store_of_ne h _ _ _

theorem State.codesWritten_store_of_ne {id x : Nat} (h : x ≠ id) (track : Nat) :
    (s.codesWritten id track).store x = s.store x :=
  (State.written_store_of_ne h _ _ _).trans (State.sectorsWritten_store_of_ne h track)

theorem State.sectorsWritten_byteAt (s : State) (id track x a : Nat) :
    (s.sectorsWritten id track).byteAt x a
      = if x = id ∧ trackOffset s.params track ≤ a
            ∧ a < trackOffset s.params track + 256 * sectorsPerTrack s.params track
        then s.tbm.d64.read (a - trackOffset s.params track) else s.byteAt x a := s.written_byteAt _ _ _ _ _ _

theorem State.codesWritten_byteAt {track : Nat} (h : track ≤ s.tbm.nTracks.toNat) (id x a : Nat) :
    (s.codesWritten id track).byteAt x a
      = if x = id ∧ trackOffset s.params track ≤ a
            ∧ a < trackOffset s.params track + 256 * sectorsPerTrack s.params track
        then s.tbm.d64.read (a - trackOffset s.params track)
        else if x = id ∧ s.codesOffset track ≤ a ∧ a < s.codesOffset track + sectorsPerTrack s.params track
        then s.tbm.bad.read (a - s.codesOffset track) else s.byteAt x a := by
  have hapart := State.sectors_le_codesOffset h
  rw [State.codesWritten, State.written_byteAt, State.sectorsWritten_byteAt]
  by_cases hcodes : x = id ∧ s.codesOffset track ≤ a ∧ a < s.codesOffset track + sectorsPerTrack s.params track
  · rw [if_pos hcodes, if_neg (by omega), if_pos hcodes]
  · rw [if_neg hcodes, if_neg hcodes]

/-- Settles O20: the decode with no sector, then the write-back by its draws, with an error table or without. -/
theorem flushTrackWrites : Obligations.FlushTrackWrites := by
  intro s id n t spt p off base hn hdirty hro hid hpos htracks
  have hwritable : s.tbm.Writable id := ⟨hid, hro, inImage_iff.2 ⟨by omega, by omega⟩⟩
  have htracks' : t ≤ s.flushed.tbm.nTracks.toNat := by
    obtain ⟨d, b, h⟩ := s.flushed_tbm
    rwa [h]
  have htable := s.flushed_hasErrorTable
  have hsectors := s.flushed.sectorsWritten_keepsBlocks id t
  have hcodes := s.flushed.codesWritten_keepsBlocks id t
  have hbase : s.flushed.codesOffset t = base := s.flushed_codesOffset t
  rw [exec_flushTrack]
  refine ⟨fun hnone => ?_, fun hsome hgood => ?_, fun hsome hfails => ?_, fun hsome herr hgood hfails => ?_⟩
  · rw [flushTrack_of_no_sector hn hdirty hwritable hnone]
    rfl
  · rw [flushTrack_of_sectors hn hdirty hwritable hsome]
    rw [← s.flushed_noFailure] at hgood
    cases herr : s.tbm.hasErrorTable with
    | false =>
      rw [herr] at htable hgood
      rw [writeTrack_of_no_table hgood htable]
      refine ⟨_, rfl, rfl, hsectors.tbm, hsectors.fdc, hsectors.tape, fun x a => ?_,
        fun x hx => State.sectorsWritten_store_of_ne hx t⟩
      simp only [Bool.false_eq_true, false_and, and_false, if_false]
      exact s.flushed.sectorsWritten_byteAt id t x a
    | true =>
      rw [herr] at htable hgood
      rw [writeTrack_of_table hgood htable]
      refine ⟨_, rfl, rfl, hcodes.tbm, hcodes.fdc, hcodes.tape, fun x a => ?_,
        fun x hx => State.codesWritten_store_of_ne hx t⟩
      simp only [true_and]
      rw [← hbase]
      exact State.codesWritten_byteAt htracks' id x a
  · rw [flushTrack_of_sectors hn hdirty hwritable hsome, writeTrack_of_fails (show s.flushed.nextFails from hfails)]
    have hnext := keepsBlocks_ioNext s.flushed
    exact ⟨_, rfl, rfl, hnext.tbm, hnext.fdc, hnext.tape, State.ioNext_stores s.flushed⟩
  · have hfails' : s.flushed.ioNext.nextFails := by rwa [s.flushed_ioNext]
    rw [flushTrack_of_sectors hn hdirty hwritable hsome,
      writeTrack_of_codes_fail ((s.flushed_noFailure 1).2 hgood) (htable.trans herr) hfails']
    have hnext := hsectors.trans (keepsBlocks_ioNext _)
    have hstore := State.ioNext_store (s.flushed.sectorsWritten id t)
    refine ⟨_, rfl, rfl, hnext.tbm, hnext.fdc, hnext.tape, fun x a => ?_,
      fun x hx => (hstore x).trans (State.sectorsWritten_store_of_ne hx t)⟩
    refine Eq.trans ?_ (s.flushed.sectorsWritten_byteAt id t x a)
    exact congrArg (fun st : Store => st.image.2.read a) (hstore x)

end Sys2Proof.Machine

/-! ### The load of a track (41_track_buffer.md R250, R251)

What a load takes from the store and when it fails, said once for the state it starts from. -/

namespace Sys2Proof.Machine

variable {s : State}

/-! #### Store reads -/

theorem memRead_eq_ok_iff {id off n : Nat} {bs : List Byte} {t : State} :
    memRead id off n s = (.ok bs, t)
      ↔ off + n ≤ s.lengthOf id ∧ s.ioFails = false ∧ bs = (s.store id).image.2.readBytes off n ∧ t = s.ioNext := by
  obtain ⟨hread, hlen⟩ | ⟨-, hdraw, hread⟩ | ⟨hlen, hdraw, hread⟩ := memRead_cases id off n s
  · simp [hread, Nat.not_le.2 hlen]
  · simp [hread, hdraw]
  · simp [hread, hlen, hdraw, eq_comm]

theorem bad_of_memRead_eq {id off n : Nat} {r : ReadOutcome} {t : State} (h : memRead id off n s = (r, t))
    (hne : ∀ bs, r = .ok bs → False) : s.lengthOf id < off + n ∨ s.nextFails := by
  by_contra hgood
  rw [not_or, Nat.not_lt, State.nextFails, Bool.not_eq_true] at hgood
  obtain ⟨hlen, hdraw⟩ := hgood
  rw [memRead_eq_ok_iff.2 ⟨hlen, hdraw, rfl, rfl⟩] at h
  cases h
  exact hne _ rfl

/-! #### What a load takes -/

/-- The bytes of the sectors of track `track` in store `id`. -/
def State.trackData (s : State) (id track : Nat) : List Byte :=
  (s.store id).image.2.readBytes (trackOffset s.params track) (256 * sectorsPerTrack s.params track)

/-- The codes of track `track`: those of the error table, where there is one, over the codes TBM has. -/
def State.trackCodes (s : State) (id track : Nat) : Memory :=
  if s.tbm.hasErrorTable then
    s.tbm.bad.writeBytes 0 ((s.store id).image.2.readBytes (s.codesOffset track) (sectorsPerTrack s.params track))
  else s.tbm.bad

/-- The load of track `track` from store `id` fails, at the sectors or at the codes. -/
def State.LoadFails (s : State) (id track : Nat) : Prop :=
  s.lengthOf id < trackOffset s.params track + 256 * sectorsPerTrack s.params track ∨ s.nextFails
    ∨ s.tbm.hasErrorTable = true
      ∧ (s.lengthOf id < s.codesOffset track + sectorsPerTrack s.params track ∨ s.ioNext.nextFails)

/-- TBM with track `track` loaded from store `id`. -/
def State.loadedTbm (s : State) (id track : Nat) : Tbm :=
  s.tbm.loaded s.params track (s.trackData id track) (s.trackCodes id track)

/-- Everything a load can do: fail and leave the sub-blocks alone, or load the track. -/
theorem loadTrack_cases (id track : Nat) (s : State) :
    s.LoadFails id track ∧ (∃ t, loadTrack id track s = (false, t) ∧ KeepsBlocks s t)
      ∨ ¬ s.LoadFails id track
        ∧ ∃ t, loadTrack id track s = (true, t.setTbm (s.loadedTbm id track)) ∧ KeepsBlocks s t := by
  unfold loadTrack
  split
  · next data t hdata =>
    obtain ⟨hlen, hdraw, rfl, rfl⟩ := memRead_eq_ok_iff.1 hdata
    simp only [State.ioNext_tbm, State.ioNext_params]
    split
    · next herr =>
      split
      · next codes t hcodes =>
        obtain ⟨hlen', hdraw', rfl, rfl⟩ := memRead_eq_ok_iff.1 hcodes
        refine .inr ⟨?_, _, ?_, (keepsBlocks_ioNext s).trans (keepsBlocks_ioNext _)⟩
        · simp only [State.lengthOf, State.ioNext_store] at hlen hlen'
          simp [State.LoadFails, State.lengthOf, State.nextFails, State.codesOffset, hlen, hlen', hdraw, hdraw']
        · simp [State.loadedTbm, State.trackData, State.trackCodes, State.codesOffset, herr]
      · next t hcodes hread =>
        refine .inl ⟨.inr (.inr ⟨herr, ?_⟩), _, rfl, (keepsBlocks_ioNext s).trans (keepsBlocks_of_memRead_eq hread)⟩
        have hbad := bad_of_memRead_eq hread hcodes
        simpa only [State.codesOffset, State.lengthOf, State.ioNext_store] using hbad
    · next herr =>
      refine .inr ⟨?_, _, ?_, keepsBlocks_ioNext s⟩
      · simp [State.LoadFails, State.nextFails, hlen, hdraw, herr]
      · simp [State.loadedTbm, State.trackData, State.trackCodes, herr]
  · next t hdata hread =>
    exact .inl ⟨or_assoc.1 (.inl (bad_of_memRead_eq hread hdata)), _, rfl, keepsBlocks_of_memRead_eq hread⟩

/-! #### The two ends of `readTrack` -/

/-- TBM with both buffers cleared for the track that `n` names (41_track_buffer.md R250). -/
def Tbm.clearedFor (t : Tbm) (n : Int) : Tbm :=
  { t.cleared with currentTrack := BitVec.ofInt 8 (trackArg n t.currentTrack) }

theorem readTrack_of_no_image {n : Int} (h : s.tbm.imageFile = none) :
    readTrack n s = (false, s.setTbm (s.tbm.clearedFor n)) := by
  have hcleared : (s.setTbm (s.tbm.clearedFor n)).tbm.imageFile = none := h
  unfold readTrack
  dsimp only
  split
  · rfl
  · next id hid => exact absurd (hid.symm.trans hcleared) (by simp)

theorem readTrack_of_image {n : Int} {id : Nat} (h : s.tbm.imageFile = some id) :
    readTrack n s
      = if inImage s.tbm (trackArg n s.tbm.currentTrack)
        then loadTrack id (trackArg n s.tbm.currentTrack).toNat (s.setTbm (s.tbm.clearedFor n))
        else (false, s.setTbm (s.tbm.clearedFor n)) := by
  have hcleared : (s.setTbm (s.tbm.clearedFor n)).tbm.imageFile = some id := h
  unfold readTrack
  dsimp only
  split
  · next hnone => exact absurd (hnone.symm.trans hcleared) (by simp)
  · next id' hid =>
    obtain rfl : id' = id := Option.some.inj (hid.symm.trans hcleared)
    rfl

/-- Everything `readTrack` can do: leave the buffers cleared, or load the track. -/
theorem readTrack_cases (n : Int) (s : State) :
    (∃ t, readTrack n s = (false, t) ∧ KeepsBlocks (s.setTbm (s.tbm.clearedFor n)) t)
      ∨ ∃ id track t, s.tbm.imageFile = some id
        ∧ readTrack n s = (true, t.setTbm ((s.setTbm (s.tbm.clearedFor n)).loadedTbm id track))
        ∧ KeepsBlocks (s.setTbm (s.tbm.clearedFor n)) t := by
  cases himage : s.tbm.imageFile with
  | none => exact .inl ⟨_, readTrack_of_no_image himage, .refl _⟩
  | some id =>
    rw [readTrack_of_image himage]
    split
    · obtain ⟨-, t, hload, hkeeps⟩ | ⟨-, t, hload, hkeeps⟩ :=
        loadTrack_cases id (trackArg n s.tbm.currentTrack).toNat (s.setTbm (s.tbm.clearedFor n))
      · exact .inl ⟨t, hload, hkeeps⟩
      · exact .inr ⟨id, _, t, rfl, hload, hkeeps⟩
    · exact .inl ⟨_, rfl, .refl _⟩

/-- A load changes the three buffers only. -/
theorem State.loadedTbm_frame (s : State) (id track : Nat) :
    ∃ g, s.loadedTbm id track
      = { s.tbm with gcr := g, d64 := Memory.ofBytes (s.trackData id track), bad := s.trackCodes id track } :=
  encodeTrack_frame s.params (BitVec.ofNat 8 track) (sectorsPerTrack s.params track) (trackSize s.params track)
    { s.tbm with d64 := Memory.ofBytes (s.trackData id track), bad := s.trackCodes id track }

theorem readTrack_tbm (n : Int) (s : State) :
    ∃ g d b, (readTrack n s).2.tbm = { s.tbm.clearedFor n with gcr := g, d64 := d, bad := b } := by
  obtain ⟨t, hread, hkeeps⟩ | ⟨id, track, t, -, hread, -⟩ := readTrack_cases n s
  · exact ⟨_, _, _, by rw [hread]; exact hkeeps.tbm⟩
  · obtain ⟨g, hload⟩ := (s.setTbm (s.tbm.clearedFor n)).loadedTbm_frame id track
    exact ⟨_, _, _, by rw [hread]; exact hload⟩

theorem readTrack_tbm_of_false {n : Int} (h : (readTrack n s).1 = false) : (readTrack n s).2.tbm = s.tbm.clearedFor n := by
  obtain ⟨t, hread, hkeeps⟩ | ⟨id, track, t, -, hread, -⟩ := readTrack_cases n s
  · rw [hread]
    exact hkeeps.tbm
  · rw [hread] at h
    cases h

/-! #### What is read from a loaded track -/

theorem badAllOk_read (k : Nat) : badAllOk.read k = if k < 24 then 0x01 else 0 := by
  split
  · next hk => decide +revert
  · next hk =>
    refine Memory.read_of_forall_ne fun c hc => ?_
    obtain ⟨-, hbelow⟩ := badAllOk_canonical
    exact fun he => hk (he ▸ hbelow c hc)

theorem State.trackData_read (s : State) (id track a : Nat) :
    (Memory.ofBytes (s.trackData id track)).read a
      = if a < 256 * sectorsPerTrack s.params track then s.byteAt id (trackOffset s.params track + a) else 0 := by
  rw [Memory.read_ofBytes]
  split
  · next ha => exact Memory.getD_readBytes _ ha
  · next ha => exact List.getD_eq_default _ _ (by rw [State.trackData, Memory.readBytes_length]; omega)

theorem State.trackCodes_read (s : State) (id track k : Nat) :
    (s.trackCodes id track).read k
      = if s.tbm.hasErrorTable = true ∧ k < sectorsPerTrack s.params track
        then s.byteAt id (s.codesOffset track + k) else s.tbm.bad.read k := by
  unfold State.trackCodes
  split
  · next herr =>
    rw [Memory.read_writeBytes, Memory.readBytes_length]
    simp only [Nat.zero_le, true_and, Nat.zero_add, Nat.sub_zero, herr]
    split
    · next hk => exact Memory.getD_readBytes _ hk
    · rfl
  · next herr => simp [herr]

/-- The GCR image of a loaded track, under track tables the spec admits. -/
theorem State.loadedTbm_gcr (hp : TrackTablesOk s.params) (id track i : Nat) :
    (s.loadedTbm id track).gcr.read i
      = if i < trackSize s.params track
        then (trackLayout s.params (s.loadedTbm id track) (BitVec.ofNat 8 track)
          (sectorsPerTrack s.params track)).getD i 0x55
        else s.tbm.gcr.read i := by
  have hdomain : trackDomain (sectorsPerTrack s.params track) (trackSize s.params track) = true :=
    trackDomain_iff.2 ⟨sectorsPerTrack_le hp track, trackSize_le hp track⟩
  rw [State.loadedTbm, Tbm.loaded, encodeTrack_of_domain hdomain]
  dsimp only
  rw [Memory.read_writeBytes, trackBytes_length]
  simp only [Nat.zero_le, true_and, Nat.zero_add, Nat.sub_zero]
  split
  · next hi => exact getD_trackBytes _ _ _ _ hi
  · rfl

/-- TBM `u` holds track `t` of store `id`, as a load from state `s` brings it in (41_track_buffer.md R250). -/
structure TrackLoaded (s : State) (id t : Nat) (u : Tbm) : Prop where
  frame : u = { s.tbm with
    currentTrack := BitVec.ofNat 8 t, trackDirtyFlag := false, gcr := u.gcr, d64 := u.d64, bad := u.bad }
  data : ∀ a, u.d64.read a
    = if a < 256 * sectorsPerTrack s.params t then s.byteAt id (trackOffset s.params t + a) else 0
  codes : ∀ k, u.bad.read k
    = if s.tbm.hasErrorTable = true ∧ k < sectorsPerTrack s.params t then s.byteAt id (s.codesOffset t + k)
      else if k < 24 then 0x01 else 0
  image : ∀ i, u.gcr.read i
    = if i < trackSize s.params t
      then (trackLayout s.params u (BitVec.ofNat 8 t) (sectorsPerTrack s.params t)).getD i 0x55 else 0

/-- The buffers being cleared first does not matter to a failure. -/
theorem State.cleared_loadFails_iff {n : Int} {id track : Nat} :
    (s.setTbm (s.tbm.clearedFor n)).LoadFails id track ↔ s.LoadFails id track := by
  rw [State.LoadFails, State.setTbm_ioNext]
  exact Iff.rfl

theorem readTrack_of_track {n : Int} {id t : Nat} (himage : s.tbm.imageFile = some id)
    (harg : trackArg n s.tbm.currentTrack = t) (hpos : 1 ≤ t) (ht : t ≤ s.tbm.nTracks.toNat) :
    readTrack n s = loadTrack id t (s.setTbm (s.tbm.clearedFor n)) := by
  rw [readTrack_of_image himage, harg, if_pos (inImage_iff.2 ⟨by omega, by omega⟩), Int.toNat_natCast]

theorem readTrack_of_loadFails {n : Int} {id t : Nat} (himage : s.tbm.imageFile = some id)
    (harg : trackArg n s.tbm.currentTrack = t) (hpos : 1 ≤ t) (ht : t ≤ s.tbm.nTracks.toNat) (h : s.LoadFails id t) :
    (readTrack n s).1 = false := by
  obtain ⟨-, u, hload, -⟩ | ⟨hgood, -⟩ := loadTrack_cases id t (s.setTbm (s.tbm.clearedFor n))
  · rw [readTrack_of_track himage harg hpos ht, hload]
  · exact absurd (State.cleared_loadFails_iff.2 h) hgood

theorem readTrack_of_not_loadFails {n : Int} {id t : Nat} (hp : TrackTablesOk s.params)
    (himage : s.tbm.imageFile = some id) (harg : trackArg n s.tbm.currentTrack = t) (hpos : 1 ≤ t)
    (ht : t ≤ s.tbm.nTracks.toNat) (h : ¬ s.LoadFails id t) :
    (readTrack n s).1 = true ∧ TrackLoaded s id t (readTrack n s).2.tbm := by
  obtain ⟨hfails, -⟩ | ⟨-, u, hload, -⟩ := loadTrack_cases id t (s.setTbm (s.tbm.clearedFor n))
  · exact absurd (State.cleared_loadFails_iff.1 hfails) h
  · rw [readTrack_of_track himage harg hpos ht, hload]
    have hcurrent : (s.tbm.clearedFor n).currentTrack = BitVec.ofNat 8 t := by
      rw [Tbm.clearedFor, harg, BitVec.ofInt_natCast]
    obtain ⟨g, hframe⟩ := (s.setTbm (s.tbm.clearedFor n)).loadedTbm_frame id t
    refine ⟨rfl, ?_, fun a => ?_, fun k => ?_, fun i => ?_⟩
    · rw [State.setTbm_tbm, hframe, ← hcurrent]
      rfl
    · rw [State.setTbm_tbm, hframe]
      exact State.trackData_read _ id t a
    · rw [State.setTbm_tbm, hframe, ← badAllOk_read]
      exact State.trackCodes_read _ id t k
    · exact State.loadedTbm_gcr (s := s.setTbm (s.tbm.clearedFor n)) hp id t i

/-- A load whose sectors and codes the store holds, with draws that are good, does not fail. -/
theorem State.not_loadFails {id t : Nat}
    (hsectors : trackOffset s.params t + 256 * sectorsPerTrack s.params t ≤ s.lengthOf id)
    (hcodes : s.tbm.hasErrorTable = true → s.codesOffset t + sectorsPerTrack s.params t ≤ s.lengthOf id)
    (hdraws : s.noFailure (if s.tbm.hasErrorTable then 2 else 1)) : ¬ s.LoadFails id t := by
  rintro (hshort | hfails | ⟨htable, hcodesFail⟩)
  · omega
  · have hone : s.noFailure 1 := State.noFailure_mono hdraws (by split <;> omega)
    exact Bool.false_ne_true ((State.noFailure_ioFails hone).symm.trans hfails)
  · rw [if_pos htable] at hdraws
    obtain hshort | hfails := hcodesFail
    · have hlen := hcodes htable
      omega
    · exact Bool.false_ne_true ((State.noFailure_ioFails (State.noFailure_ioNext hdraws)).symm.trans hfails)

/-- Settles O18: the load that does not fail, no image or a track outside it, and the load that fails. -/
theorem readTrack_spec : Obligations.ReadTrack := by
  constructor
  · intro s id t n p spt hp hn himage hpos ht hsectors hcodes hdraws
    have harg : trackArg n s.tbm.currentTrack = t := by
      unfold trackArg
      split <;> omega
    obtain ⟨hresult, hloaded⟩ := readTrack_of_not_loadFails hp.2 himage harg hpos ht
      (State.not_loadFails hsectors hcodes hdraws)
    have hkeeps := readTrack_keepsOthers n s
    exact ⟨_, exec_readTrack n s, congrArg Result.bool hresult, hloaded.frame, hloaded.data, hloaded.codes, hloaded.image,
      hkeeps.fdc (by decide), hkeeps.tape (by decide), readTrack_stores n s⟩
  · intro s n t bare
    refine ⟨fun h => ?_, fun id himage hpos ht hfails => ?_⟩
    · have hread : readTrack n s = (false, s.setTbm bare) := by
        cases himage : s.tbm.imageFile with
        | none => exact readTrack_of_no_image himage
        | some id =>
          rw [readTrack_of_image himage]
          refine if_neg fun hin => ?_
          obtain ⟨hlo, hhi⟩ := inImage_iff.1 hin
          obtain hnone | hlt | hgt := h
          · rw [himage] at hnone
            cases hnone
          · exact absurd hlt (Int.not_lt.2 hlo)
          · exact absurd hgt (Int.not_lt.2 hhi)
      rw [exec_readTrack, hread]
      rfl
    · have harg : trackArg n s.tbm.currentTrack = t.toNat := (Int.toNat_of_nonneg (show 0 ≤ t by omega)).symm
      have hresult := readTrack_of_loadFails himage harg (by omega) (by omega) hfails
      have hkeeps := readTrack_keepsOthers n s
      exact ⟨_, exec_readTrack n s, congrArg Result.bool hresult, readTrack_tbm_of_false hresult,
        hkeeps.fdc (by decide), hkeeps.tape (by decide), readTrack_stores n s⟩

end Sys2Proof.Machine

/-! ### What the loads and the flush keep of TBM, and the change of track

A load and a flush keep the image, its geometry and the disk ID; `setCurrentTrack` is one after the other
(41_track_buffer.md R255). -/

namespace Sys2Proof.Machine

variable {s : State}

/-! #### The same disk -/

/-- From `t` to `u` the image, its geometry and the disk ID are the same, and the track is not made dirty. -/
structure Tbm.SameDisk (t u : Tbm) : Prop where
  imageFile : u.imageFile = t.imageFile
  readOnly : u.readOnly = t.readOnly
  hasErrorTable : u.hasErrorTable = t.hasErrorTable
  nTracks : u.nTracks = t.nTracks
  diskID : u.diskID = t.diskID
  idCharacter1 : u.idCharacter1 = t.idCharacter1
  idCharacter2 : u.idCharacter2 = t.idCharacter2
  notDirtied : u.trackDirtyFlag = true → t.trackDirtyFlag = true

theorem Tbm.SameDisk.refl (t : Tbm) : t.SameDisk t := ⟨rfl, rfl, rfl, rfl, rfl, rfl, rfl, id⟩

theorem Tbm.SameDisk.trans {t u v : Tbm} (h₁ : t.SameDisk u) (h₂ : u.SameDisk v) : t.SameDisk v where
  imageFile := h₂.imageFile.trans h₁.imageFile
  readOnly := h₂.readOnly.trans h₁.readOnly
  hasErrorTable := h₂.hasErrorTable.trans h₁.hasErrorTable
  nTracks := h₂.nTracks.trans h₁.nTracks
  diskID := h₂.diskID.trans h₁.diskID
  idCharacter1 := h₂.idCharacter1.trans h₁.idCharacter1
  idCharacter2 := h₂.idCharacter2.trans h₁.idCharacter2
  notDirtied := fun h => h₁.notDirtied (h₂.notDirtied h)

theorem Tbm.SameDisk.tbmOk {t u : Tbm} (h : t.SameDisk u) (ht : TbmOk t) : TbmOk u := by
  unfold TbmOk
  rw [h.imageFile, h.readOnly, h.hasErrorTable, h.nTracks]
  exact ht

/-- The buffers and the current track are not of the disk, and a track may be cleaned. -/
theorem Tbm.sameDisk_of_buffers (t : Tbm) (c : Byte) (g d b : Memory) {dirty : Bool}
    (h : dirty = true → t.trackDirtyFlag = true) :
    t.SameDisk { t with currentTrack := c, gcr := g, d64 := d, bad := b, trackDirtyFlag := dirty } :=
  ⟨rfl, rfl, rfl, rfl, rfl, rfl, rfl, h⟩

theorem encodeTrack_sameDisk (p : Params) (k : Byte) (n m : Nat) (t : Tbm) : t.SameDisk (encodeTrack p k n m t) := by
  obtain ⟨g, h⟩ := encodeTrack_frame p k n m t
  rw [h]
  exact t.sameDisk_of_buffers _ _ _ _ id

theorem decodeTrack_sameDisk (k : Byte) (n m : Nat) (t : Tbm) : t.SameDisk (decodeTrack k n m t).2 := by
  obtain ⟨d, b, h⟩ := decodeTrack_frame k n m t
  rw [h]
  exact t.sameDisk_of_buffers _ _ _ _ id

theorem readTrack_sameDisk (n : Int) (s : State) : s.tbm.SameDisk (readTrack n s).2.tbm := by
  obtain ⟨g, d, b, h⟩ := readTrack_tbm n s
  rw [h]
  exact s.tbm.sameDisk_of_buffers _ _ _ _ nofun

/-- Everything a write-back can return, with no sub-block changed. -/
theorem writeTrack_cases (id track : Nat) (s : State) :
    ((writeTrack id track s).1 = .ok true ∨ (writeTrack id track s).1 = .error .write)
      ∧ KeepsBlocks s (writeTrack id track s).2 := by
  have hsectors := fun off bs => memWrite_keepsBlocks id off bs s
  unfold writeTrack
  dsimp only
  split
  · exact ⟨.inr rfl, hsectors _ _⟩
  split
  · split
    · exact ⟨.inr rfl, (hsectors _ _).trans (memWrite_keepsBlocks _ _ _ _)⟩
    · exact ⟨.inl rfl, (hsectors _ _).trans (memWrite_keepsBlocks _ _ _ _)⟩
  · exact ⟨.inl rfl, hsectors _ _⟩

/-- Everything a flush can do to TBM: leave it, clear the dirty flag, or decode the track and clear the flag. -/
theorem flushTrack_cases (n : Int) (s : State) :
    ((flushTrack n s).1 = .ok true ∨ (flushTrack n s).1 = .error .write)
      ∧ ((flushTrack n s).2.tbm = s.tbm ∨ (flushTrack n s).2.tbm = { s.tbm with trackDirtyFlag := false }
        ∨ (flushTrack n s).2.tbm = s.flushed.tbm) := by
  by_cases hn : n = -1 ∨ n = s.tbm.currentTrack.toNat
  · cases hdirty : s.tbm.trackDirtyFlag with
    | false =>
      rw [flushTrack_of_not_dirty n hdirty]
      exact ⟨.inl rfl, .inl rfl⟩
    | true =>
      by_cases hwritable : ∃ id, s.tbm.Writable id
      · obtain ⟨id, hid⟩ := hwritable
        by_cases hcount : s.decoded.1 = 0
        · rw [flushTrack_of_no_sector hn hdirty hid hcount]
          exact ⟨.inl rfl, .inr (.inr rfl)⟩
        · obtain ⟨hresult, hkeeps⟩ := writeTrack_cases id s.tbm.currentTrack.toNat s.flushed
          rw [flushTrack_of_sectors hn hdirty hid hcount]
          exact ⟨hresult, .inr (.inr hkeeps.tbm)⟩
      · rw [flushTrack_of_not_writable hn hdirty (not_exists.1 hwritable)]
        exact ⟨.inl rfl, .inr (.inl rfl)⟩
  · rw [flushTrack_of_other hn]
    exact ⟨.inl rfl, .inl rfl⟩

theorem flushTrack_sameDisk (n : Int) (s : State) : s.tbm.SameDisk (flushTrack n s).2.tbm := by
  obtain ⟨-, h | h | h⟩ := flushTrack_cases n s <;> rw [h]
  · exact .refl _
  · exact s.tbm.sameDisk_of_buffers _ _ _ _ nofun
  · obtain ⟨d, b, hframe⟩ := s.flushed_tbm
    rw [hframe]
    exact s.tbm.sameDisk_of_buffers _ _ _ _ nofun

/-! #### `setCurrentTrack` (41_track_buffer.md R255) -/

theorem setCurrentTrack_of_current {n : Int} (h : clampTrack n = s.tbm.currentTrack.toNat) :
    setCurrentTrack n s = (true, s) := if_pos h

/-- The state after the flush, with the target current. -/
def State.moved (s : State) (n : Int) : State :=
  (flushTrack (-1) s).2.setTbm { (flushTrack (-1) s).2.tbm with currentTrack := BitVec.ofInt 8 (clampTrack n) }

theorem setCurrentTrack_of_flushed {n : Int} (h : clampTrack n ≠ s.tbm.currentTrack.toNat)
    (hflush : (flushTrack (-1) s).1 = .ok true) : setCurrentTrack n s = readTrack (-1) (s.moved n) := by
  unfold setCurrentTrack
  dsimp only
  rw [if_neg h, hflush]
  exact congrArg (·, (readTrack (-1) (s.moved n)).2) (Bool.true_and _)

theorem setCurrentTrack_of_flush_error {n : Int} {k : IoError} (h : clampTrack n ≠ s.tbm.currentTrack.toNat)
    (hflush : (flushTrack (-1) s).1 = .error k) :
    setCurrentTrack n s = (false, (readTrack (-1) (s.moved n)).2) := by
  unfold setCurrentTrack
  dsimp only
  rw [if_neg h, hflush]
  exact congrArg (·, (readTrack (-1) (s.moved n)).2) (Bool.false_and _)

/-! #### The last result does not matter to an operation -/

theorem memRead_returns (id off n : Nat) (s : State) (r : Result) :
    memRead id off n (s.returns r) = ((memRead id off n s).1, (memRead id off n s).2.returns r) := by
  unfold memRead
  rw [State.returns_store, State.returns_ioFails, State.returns_ioNext]
  split
  · rfl
  · split <;> rfl

theorem loadTrack_returns (id track : Nat) (s : State) (r : Result) :
    loadTrack id track (s.returns r) = ((loadTrack id track s).1, (loadTrack id track s).2.returns r) := by
  unfold loadTrack
  rw [memRead_returns]
  simp only [State.returns_params]
  obtain ⟨data | _ | _, s1⟩ := memRead id (trackOffset s.params track) (256 * sectorsPerTrack s.params track) s
  · simp only [State.returns_tbm, State.returns_params, memRead_returns]
    split
    · obtain ⟨codes | _ | _, s2⟩ := memRead id (errBase s1.params s1.tbm + trackOffset s1.params track / 256)
        (sectorsPerTrack s1.params track) s1 <;> rfl
    · rfl
  · rfl
  · rfl

theorem readTrack_returns (n : Int) (s : State) (r : Result) :
    readTrack n (s.returns r) = ((readTrack n s).1, (readTrack n s).2.returns r) := by
  cases himage : s.tbm.imageFile with
  | none =>
    rw [readTrack_of_no_image himage, readTrack_of_no_image (s := s.returns r) himage]
    rfl
  | some id =>
    rw [readTrack_of_image himage, readTrack_of_image (s := s.returns r) himage, State.returns_tbm]
    split
    · exact loadTrack_returns id _ (s.setTbm (s.tbm.clearedFor n)) r
    · rfl

theorem exec_readTrack_returns (n : Int) (s : State) (r : Result) :
    exec (.readTrack n) (s.returns r) = .next ((readTrack n s).2.returns (.bool (readTrack n s).1)) := by
  rw [exec_readTrack, readTrack_returns]
  rfl

/-- The result an operation that may raise leaves. -/
def outcomeResult {α : Type} (f : α → Result) : Except IoError α → Result
  | .ok a => f a
  | .error k => .hostIoError k

theorem finish_eq {α : Type} (f : α → Result) (out : Except IoError α × State) :
    finish f out = out.2.returns (outcomeResult f out.1) := by
  obtain ⟨_ | _, _⟩ := out <;> rfl

theorem bool_beq_true (b : Bool) : (Result.bool b == .bool true) = b := by cases b <;> rfl

theorem clampTrack_bounds (n : Int) : 1 ≤ clampTrack n ∧ clampTrack n ≤ 42 := by
  unfold clampTrack
  omega

theorem ofInt_toNat_of_track {t : Int} (h : 1 ≤ t ∧ t ≤ 42) : ((BitVec.ofInt 8 t).toNat : Int) = t := by
  rw [BitVec.toNat_ofInt]
  omega

/-- After a load of the current track that track is current, and not dirty. -/
theorem readTrack_current (s : State) :
    (readTrack (-1) s).2.tbm.currentTrack = s.tbm.currentTrack ∧ (readTrack (-1) s).2.tbm.trackDirtyFlag = false := by
  obtain ⟨g, d, b, h⟩ := readTrack_tbm (-1) s
  rw [h]
  exact ⟨by simp [Tbm.clearedFor, trackArg], rfl⟩

/-- Settles O21: the current track, and another by the end of the flush. -/
theorem setCurrentTrack_spec : Obligations.SetCurrentTrack := by
  intro s n t
  refine ⟨fun h => ?_, fun h => ?_⟩
  · rw [exec_setCurrentTrack, setCurrentTrack_of_current h]
    rfl
  · obtain ⟨hcurrent, hclean⟩ := readTrack_current (s.moved n)
    rw [exec_flushTrack, exec_setCurrentTrack, finish_eq]
    refine ⟨_, _, rfl, exec_readTrack_returns (-1) (s.moved n) _, ?_, ?_, hclean⟩
    · obtain ⟨hflush | hflush, -⟩ := flushTrack_cases (-1) s
      · rw [setCurrentTrack_of_flushed h hflush, hflush]
        simp only [State.returns_result, outcomeResult, bool_beq_true, Bool.true_and]
        rfl
      · rw [setCurrentTrack_of_flush_error h hflush, hflush]
        rfl
    · exact (congrArg (fun c : Byte => (c.toNat : Int)) hcurrent).trans (ofInt_toNat_of_track (clampTrack_bounds n))

end Sys2Proof.Machine

/-! ### Attach and detach (41_track_buffer.md R256 to R260, R267)

An attach starts from the detached core with the disk ID rotated; from there it is a load of track 18. -/

namespace Sys2Proof.Machine

variable {s : State}

/-! #### Detach -/

theorem Tbm.SameDisk.detached_eq {t u : Tbm} (h : t.SameDisk u) (p : Params) : u.detached p = t.detached p := by
  unfold Tbm.detached
  rw [h.diskID, h.idCharacter1, h.idCharacter2]

theorem flushTrack_detached (n : Int) (s : State) :
    (flushTrack n s).2.tbm.detached (flushTrack n s).2.params = s.tbm.detached s.params := by
  rw [(flushTrack_keepsOthers n s).params, (flushTrack_sameDisk n s).detached_eq]

/-- Settles O24: the flush keeps the disk ID, and its outcome is overwritten. -/
theorem closeD64 : Obligations.CloseD64 := by
  intro s
  refine ⟨_, exec_flushTrack (-1) s, ?_⟩
  rw [exec_closeD64, flushTrack_detached, finish_eq]
  rfl

/-! #### The disk ID (41_track_buffer.md R258) -/

/-- TBM detached, with the disk ID rotated. -/
def State.bareTbm (s : State) : Tbm := (s.tbm.detached s.params).rotated

theorem high_nibble_eq (d : Byte) : (d.extractLsb' 4 4).setWidth 8 = d >>> 4 := by decide +revert

theorem low_nibble_eq (d : Byte) : (d.extractLsb' 0 4).setWidth 8 = d &&& 0x0F := by decide +revert

theorem byte_of_nibbles (d : Byte) : (d >>> 4) <<< 4 ||| (d &&& 0x0F) = d := by decide +revert

theorem byte_eq_of_characters {d e : Byte} (hhigh : (0x41 : Byte) + (d >>> 4) = 0x41 + (e >>> 4))
    (hlow : (0x41 : Byte) + (d &&& 0x0F) = 0x41 + (e &&& 0x0F)) : d = e := by
  rw [← byte_of_nibbles d, ← byte_of_nibbles e, BitVec.add_right_inj .. |>.1 hhigh, BitVec.add_right_inj .. |>.1 hlow]

theorem State.bareTbm_eq (s : State) :
    s.bareTbm = { Tbm.construct s.params with
      diskID := s.tbm.diskID + 1
      idCharacter1 := (0x41 : Byte) + ((s.tbm.diskID + 1) >>> 4)
      idCharacter2 := (0x41 : Byte) + ((s.tbm.diskID + 1) &&& 0x0F) } := by
  rw [← high_nibble_eq, ← low_nibble_eq]
  rfl

/-! #### `setImageFile` (41_track_buffer.md R256) -/

/-- The flush of an attached image. -/
def State.firstFlush (s : State) : Except IoError Bool × State :=
  if s.tbm.imageFile = none then (.ok true, s) else flushTrack (-1) s

theorem State.firstFlush_result (s : State) : s.firstFlush.1 = .ok true ∨ s.firstFlush.1 = .error .write := by
  unfold State.firstFlush
  split
  · exact .inl rfl
  · exact (flushTrack_cases (-1) s).1

/-- The state after that flush, detached and with the disk ID rotated. -/
def State.bare (s : State) : State := s.firstFlush.2.setTbm s.bareTbm

/-- What is left of `setImageFile` after the flush that ended with `flush`. -/
def attachAfter (flush : Except IoError Bool) (file : Option Nat) (ro : Bool) (s : State) : Except IoError Unit × State :=
  match flush, file with
  | .error k, _ => (.error k, s)
  | .ok _, none => (.ok (), s)
  | .ok _, some id => attachImage id ro s

theorem setImageFile_eq (file : Option Nat) (ro : Bool) (s : State) :
    setImageFile file ro s = attachAfter s.firstFlush.1 file ro s.bare := by
  cases himage : s.tbm.imageFile with
  | none =>
    rw [State.bare, State.firstFlush, if_pos himage]
    unfold setImageFile
    rw [himage]
    rfl
  | some id =>
    rw [State.bare, State.firstFlush, if_neg (by simp [himage]), State.bareTbm, ← flushTrack_detached (-1) s]
    unfold setImageFile
    rw [himage]
    rfl

/-! #### The attach -/

/-- TBM with an image of `n` tracks attached. -/
def Tbm.attached (t : Tbm) (id : Nat) (ro err : Bool) (n : Nat) : Tbm :=
  { t with imageFile := some id, readOnly := ro, hasErrorTable := err, nTracks := BitVec.ofNat 8 n }

theorem attachImage_of_bad_length {id : Nat} (h : d64Layout (s.lengthOf id) = none) (ro : Bool) :
    attachImage id ro s = (.error .badLength, s) := by
  unfold attachImage
  rw [show d64Layout (s.store id).length = none from h]

/-- TBM with an image of `n` tracks attached and track 18 current, not yet loaded. -/
def Tbm.attachedAt18 (t : Tbm) (id : Nat) (ro err : Bool) (n : Nat) : Tbm :=
  { t.attached id ro err n with currentTrack := 18 }

/-- The load of track 18 of the image just attached. -/
def State.attachRead (s : State) (id : Nat) (ro err : Bool) (n : Nat) : Bool × State :=
  readTrack (-1) (s.setTbm (s.tbm.attachedAt18 id ro err n))

/-- With no track resident nothing is flushed, and `setCurrentTrack(18)` is the load of track 18. -/
theorem setCurrentTrack_attached (hcurrent : s.tbm.currentTrack = 0) (hclean : s.tbm.trackDirtyFlag = false) (id : Nat)
    (ro err : Bool) (n : Nat) :
    setCurrentTrack 18 (s.setTbm (s.tbm.attached id ro err n)) = s.attachRead id ro err n := by
  have hflush := flushTrack_of_not_dirty (s := s.setTbm (s.tbm.attached id ro err n)) (-1) hclean
  have hother : clampTrack 18 ≠ (s.setTbm (s.tbm.attached id ro err n)).tbm.currentTrack.toNat := by
    rw [show (s.setTbm (s.tbm.attached id ro err n)).tbm.currentTrack = 0 from hcurrent]
    decide
  rw [setCurrentTrack_of_flushed hother (congrArg Prod.fst hflush), State.moved, hflush]
  rfl

theorem attachImage_of_layout {id n : Nat} {err : Bool} (h : d64Layout (s.lengthOf id) = some (n, err))
    (hcurrent : s.tbm.currentTrack = 0) (hclean : s.tbm.trackDirtyFlag = false) (ro : Bool) :
    attachImage id ro s
      = (if (s.attachRead id ro err (35 + (n - 683) / 17)).1 then .ok () else .error .read,
        (s.attachRead id ro err (35 + (n - 683) / 17)).2) := by
  have hset := setCurrentTrack_attached hcurrent hclean id ro err (35 + (n - 683) / 17)
  unfold Tbm.attached at hset
  unfold attachImage
  rw [show d64Layout (s.store id).length = some (n, err) from h]
  dsimp only
  rw [hset]
  split <;> rfl

theorem validCount_iff {n : Nat} : validCount n = true ↔ ∃ k ≤ 7, n = 683 + 17 * k := by
  rw [validCount, decide_eq_true_iff]
  constructor
  · rintro ⟨hlo, hmod, hk⟩
    exact ⟨(n - 683) / 17, hk, by omega⟩
  · rintro ⟨k, hk, rfl⟩
    omega

theorem d64Layout_eq_none {len : Nat} (h : ∀ k ≤ 7, len ≠ (683 + 17 * k) * 256 ∧ len ≠ (683 + 17 * k) * 257) :
    d64Layout len = none := by
  unfold d64Layout
  rw [if_neg, if_neg]
  · rintro ⟨hmod, hcount⟩
    obtain ⟨k, hk, hlen⟩ := validCount_iff.1 hcount
    exact (h k hk).2 (by omega)
  · rintro ⟨hmod, hcount⟩
    obtain ⟨k, hk, hlen⟩ := validCount_iff.1 hcount
    exact (h k hk).1 (by omega)

theorem d64Layout_of_length (k : Nat) (hk : k ≤ 7) (err : Bool) :
    d64Layout ((683 + 17 * k) * (if err then 257 else 256)) = some (683 + 17 * k, err) := by
  decide +revert

theorem d64Layout_eq_some {len n : Nat} {err : Bool} (h : d64Layout len = some (n, err)) : ∃ k ≤ 7, n = 683 + 17 * k := by
  unfold d64Layout at h
  split at h
  · next hcount =>
    cases h
    exact validCount_iff.1 hcount.2
  split at h
  · next hcount =>
    cases h
    exact validCount_iff.1 hcount.2
  · cases h

/-- Everything `setImageFile` can do to TBM: leave it detached, or attach an image of 35 to 42 tracks and load from it. -/
theorem setImageFile_tbm (file : Option Nat) (ro : Bool) (s : State) :
    (setImageFile file ro s).2.tbm = s.bareTbm
      ∨ ∃ id err n, (35 ≤ n ∧ n ≤ 42) ∧ (s.bareTbm.attachedAt18 id ro err n).SameDisk (setImageFile file ro s).2.tbm := by
  rw [setImageFile_eq]
  match s.firstFlush.1, file with
  | .error _, _ => exact .inl rfl
  | .ok _, none => exact .inl rfl
  | .ok _, some id =>
    rw [attachAfter]
    cases hlayout : d64Layout (s.bare.lengthOf id) with
    | none =>
      rw [attachImage_of_bad_length hlayout]
      exact .inl rfl
    | some layout =>
      obtain ⟨n, err⟩ := layout
      obtain ⟨k, hk, rfl⟩ := d64Layout_eq_some hlayout
      rw [attachImage_of_layout hlayout rfl rfl]
      exact .inr ⟨id, err, 35 + (683 + 17 * k - 683) / 17, by omega,
        readTrack_sameDisk (-1) (s.bare.setTbm (s.bareTbm.attachedAt18 id ro err _))⟩

end Sys2Proof.Machine

/-! ### What every instruction does to TBM

The disk ID rotates with each `setImageFile` (41_track_buffer.md R258); the geometry stays legal, and only `gcrWriteByte`
makes the track dirty (R268, 10_state.md R26). -/

namespace Sys2Proof.Machine

variable {s t : State}

/-! #### The disk ID rotates -/

theorem setImageFile_id (file : Option Nat) (ro : Bool) (s : State) :
    (setImageFile file ro s).2.tbm.diskID = s.tbm.diskID + 1
      ∧ (setImageFile file ro s).2.tbm.idCharacter1 = (0x41 : Byte) + ((s.tbm.diskID + 1) >>> 4)
      ∧ (setImageFile file ro s).2.tbm.idCharacter2 = (0x41 : Byte) + ((s.tbm.diskID + 1) &&& 0x0F) := by
  have hbare := s.bareTbm_eq
  obtain h | ⟨id, err, n, -, h⟩ := setImageFile_tbm file ro s
  · rw [h, hbare]
    exact ⟨rfl, rfl, rfl⟩
  · rw [h.diskID, h.idCharacter1, h.idCharacter2, hbare]
    exact ⟨rfl, rfl, rfl⟩

theorem setImageFile_id_of_exec {file : Option Nat} {ro : Bool} (h : exec (.setImageFile file ro) s = .next t) :
    t.tbm.diskID = s.tbm.diskID + 1 ∧ t.tbm.idCharacter1 = (0x41 : Byte) + (t.tbm.diskID >>> 4)
      ∧ t.tbm.idCharacter2 = (0x41 : Byte) + (t.tbm.diskID &&& 0x0F) := by
  rw [exec_setImageFile, finish_eq] at h
  cases h
  obtain ⟨hid, hhigh, hlow⟩ := setImageFile_id file ro s
  rw [State.returns_tbm, hhigh, hlow, hid]
  exact ⟨rfl, rfl, rfl⟩

/-- Settles O22: the characters determine the disk ID, which the second call adds one to. -/
theorem diskIdRotates : Obligations.DiskIdRotates := by
  refine ⟨fun file ro s t hexec => ?_, fun d e => byte_eq_of_characters, rfl, rfl, rfl⟩
  obtain ⟨hid, hhigh, hlow⟩ := setImageFile_id_of_exec hexec
  refine ⟨hid, hhigh, hlow, fun file' ro' u hexec' hsame => ?_⟩
  obtain ⟨hid', hhigh', hlow'⟩ := setImageFile_id_of_exec hexec'
  rw [Prod.mk.injEq, hhigh, hlow, hhigh', hlow'] at hsame
  obtain ⟨hsameHigh, hsameLow⟩ := hsame
  have hnext := hid'.symm.trans (byte_eq_of_characters hsameHigh hsameLow)
  bv_omega

/-! #### The geometry of TBM (41_track_buffer.md R268) -/

/-- What an operation may do to TBM: keep the disk, or leave a legal geometry with a clean track. -/
inductive TbmChange (t u : Tbm) : Prop where
  | kept (h : t.SameDisk u)
  | attached (geometry : TbmOk u) (clean : u.trackDirtyFlag ≠ true)

theorem TbmChange.keeps_tbmOk {t u : Tbm} (h : TbmChange t u) (ht : TbmOk t) : TbmOk u := by
  cases h with
  | kept h => exact h.tbmOk ht
  | attached geometry _ => exact geometry

theorem TbmChange.notDirtied {t u : Tbm} (h : TbmChange t u) (hu : u.trackDirtyFlag = true) : t.trackDirtyFlag = true := by
  cases h with
  | kept h => exact h.notDirtied hu
  | attached _ clean => exact absurd hu clean

theorem tbmChange_of_eq {t u : Tbm} (h : u = t) : TbmChange t u := .kept (h ▸ .refl t)

theorem detached_tbmOk (t : Tbm) (p : Params) : TbmOk (t.detached p) := ⟨nofun, fun _ => ⟨rfl, rfl, rfl⟩⟩

theorem attachedAt18_tbmOk (t : Tbm) (id : Nat) (ro err : Bool) {n : Nat} (h : 35 ≤ n ∧ n ≤ 42) :
    TbmOk (t.attachedAt18 id ro err n) := by
  refine ⟨fun _ => ?_, nofun⟩
  have hn : (BitVec.ofNat 8 n).toNat = n := by
    rw [BitVec.toNat_ofNat]
    omega
  rwa [show (t.attachedAt18 id ro err n).nTracks = BitVec.ofNat 8 n from rfl, hn]

theorem setImageFile_tbmChange (file : Option Nat) (ro : Bool) (s : State) :
    TbmChange s.tbm (setImageFile file ro s).2.tbm := by
  obtain h | ⟨id, err, n, hn, h⟩ := setImageFile_tbm file ro s
  · rw [h]
    exact .attached (detached_tbmOk s.tbm s.params) Bool.false_ne_true
  · exact .attached (h.tbmOk (attachedAt18_tbmOk _ id ro err hn)) (mt h.notDirtied Bool.false_ne_true)

theorem setCurrentTrack_sameDisk (n : Int) (s : State) : s.tbm.SameDisk (setCurrentTrack n s).2.tbm := by
  by_cases h : clampTrack n = s.tbm.currentTrack.toNat
  · rw [setCurrentTrack_of_current h]
    exact .refl _
  · have hmoved : s.tbm.SameDisk (s.moved n).tbm :=
      (flushTrack_sameDisk (-1) s).trans (Tbm.sameDisk_of_buffers _ _ _ _ _ id)
    have hread := hmoved.trans (readTrack_sameDisk (-1) (s.moved n))
    obtain ⟨hflush | hflush, -⟩ := flushTrack_cases (-1) s
    · rwa [setCurrentTrack_of_flushed h hflush]
    · rwa [setCurrentTrack_of_flush_error h hflush]

/-- A change of TBM, or the one instruction that makes the track dirty. -/
theorem exec_tbmChange : ∀ {i : Instr}, subBlock i = .tbm → exec i s = .next t →
    TbmChange s.tbm t.tbm ∨ ∃ k v, i = .gcrWriteByte k v
  | .gcrEncodeFourBytes _ _ _ _, _, rfl => .inl (tbmChange_of_eq rfl)
  | .gcrDecodeFourBytes _ _ _ _ _, _, rfl => .inl (tbmChange_of_eq rfl)
  | .gcrEncodeTrack k n m, _, rfl => .inl (.kept (encodeTrack_sameDisk s.params k n m s.tbm))
  | .gcrDecodeTrack k n m, _, rfl => .inl (.kept (decodeTrack_sameDisk k n m s.tbm))
  | .setImageFile file ro, _, rfl => .inl (by rw [finish_eq]; exact setImageFile_tbmChange file ro s)
  | .readTrack n, _, rfl => .inl (.kept (readTrack_sameDisk n s))
  | .flushTrack n, _, rfl => .inl (by rw [finish_eq]; exact .kept (flushTrack_sameDisk n s))
  | .setCurrentTrack n, _, rfl => .inl (.kept (setCurrentTrack_sameDisk n s))
  | .gcrReadByte _, _, rfl => .inl (tbmChange_of_eq rfl)
  | .gcrWriteByte k v, _, _ => .inr ⟨k, v, rfl⟩
  | .getTrackInfo, _, rfl => .inl (tbmChange_of_eq rfl)
  | .setSectorErrorCode n code, _, h => by
    by_cases hn : n < badTableLen
    · rw [exec_setSectorErrorCode_of_lt hn] at h
      cases h
      exact .inl (.kept (s.tbm.sameDisk_of_buffers _ _ _ _ id))
    · rw [exec_setSectorErrorCode_of_le (Nat.not_lt.1 hn)] at h
      cases h
      exact .inl (tbmChange_of_eq rfl)
  | .getSectorErrorCode _, _, rfl => .inl (tbmChange_of_eq rfl)
  | .closeD64, _, rfl => .inl (.attached (detached_tbmOk _ _) Bool.false_ne_true)

/-- The whole machine: outside the operations of TBM nothing of it changes (60_exceptions.md R538). -/
theorem exec_tbm (i : Instr) (h : exec i s = .next t) : TbmChange s.tbm t.tbm ∨ ∃ k v, i = .gcrWriteByte k v := by
  by_cases hb : subBlock i = .tbm
  · exact exec_tbmChange hb h
  · obtain ⟨u, hexec, heffect⟩ := exec_effect i s
    rw [hexec] at h
    cases h
    obtain ⟨-, -, htbm, -⟩ := heffect.keepsOthers
    exact .inl (tbmChange_of_eq (htbm hb))

theorem gcrWriteByte_tbmOk {k : Nat} {v : Byte} (hs : TbmOk s.tbm) (h : exec (.gcrWriteByte k v) s = .next t) :
    TbmOk t.tbm := by
  by_cases hn : trackSize s.params s.tbm.currentTrack.toNat = 0
  · rw [exec_gcrWriteByte_of_no_track k v hn] at h
    cases h
    exact hs
  · rw [exec_gcrWriteByte_of_track k v hn] at h
    cases h
    exact hs

/-- Settles O25: a step is an instruction, and each one changes TBM in one of the ways above or writes a byte. -/
theorem tbmInvariant : Obligations.TbmInvariant := by
  refine ⟨fun s t hs hstep => ?_, fun i s t hexec hdirty => ?_⟩
  · cases hcalls : s.calls with
    | nil =>
      rw [step_of_calls_nil hcalls] at hstep
      cases hstep
    | cons c rest =>
      cases hdec : decode c with
      | error e =>
        rw [step_of_decode_error hcalls hdec] at hstep
        cases hstep
      | ok i =>
        rw [step_of_decode_ok hcalls hdec] at hstep
        obtain hchange | ⟨k, v, rfl⟩ := exec_tbm i hstep
        · exact hchange.keeps_tbmOk hs
        · exact gcrWriteByte_tbmOk (s := { s with calls := rest }) hs hstep
  · exact (exec_tbm i hexec).imp_left fun hchange => hchange.notDirtied hdirty

end Sys2Proof.Machine

/-! ### `setImageFile` in whole (41_track_buffer.md R256, R257, R260)

Each end of the flush and of the attach, as the state the call leaves; and when the load of track 18 succeeds. -/

namespace Sys2Proof.Machine

variable {s : State}

/-! #### The state after the flush -/

/-- The state the flush of an attached image leaves, as a call of `flushTrack(-1)`; the state itself with none. -/
def State.afterFlush (s : State) : State :=
  s.firstFlush.2.returns (if s.tbm.imageFile = none then s.result else outcomeResult .bool s.firstFlush.1)

theorem State.afterFlush_of_no_image (h : s.tbm.imageFile = none) : s.afterFlush = s := by
  rw [State.afterFlush, State.firstFlush, if_pos h, if_pos h]
  rfl

theorem exec_flushTrack_of_image (h : s.tbm.imageFile ≠ none) : exec (.flushTrack (-1)) s = .next s.afterFlush := by
  rw [exec_flushTrack, finish_eq, State.afterFlush, State.firstFlush, if_neg h, if_neg h]

theorem State.afterFlush_result (h : s.tbm.imageFile ≠ none) :
    s.afterFlush.result = outcomeResult .bool s.firstFlush.1 := by
  rw [State.afterFlush, if_neg h]
  rfl

theorem State.firstFlush_of_result (h : s.tbm.imageFile = none ∨ s.afterFlush.result = .bool true) :
    s.firstFlush.1 = .ok true := by
  by_cases himage : s.tbm.imageFile = none
  · rw [State.firstFlush, if_pos himage]
  · obtain hresult := h.resolve_left himage
    obtain hflush | hflush := s.firstFlush_result
    · exact hflush
    · rw [s.afterFlush_result himage, hflush] at hresult
      cases hresult

theorem State.firstFlush_of_clean (h : s.tbm.imageFile = none ∨ s.tbm.trackDirtyFlag = false) :
    s.firstFlush = (.ok true, s) := by
  unfold State.firstFlush
  split
  · rfl
  · next himage => exact flushTrack_of_not_dirty _ (h.resolve_left himage)

/-! #### The ends of the call -/

theorem exec_setImageFile_eq (file : Option Nat) (ro : Bool) (s : State) :
    exec (.setImageFile file ro) s = .next (finish (fun _ => .none) (attachAfter s.firstFlush.1 file ro s.bare)) := by
  rw [exec_setImageFile, setImageFile_eq]

theorem exec_setImageFile_of_flush_error {k : IoError} (h : s.firstFlush.1 = .error k) (file : Option Nat) (ro : Bool) :
    exec (.setImageFile file ro) s = .next (s.bare.raise k) := by
  rw [exec_setImageFile_eq, h]
  rfl

theorem exec_setImageFile_none (h : s.firstFlush.1 = .ok true) (ro : Bool) :
    exec (.setImageFile none ro) s = .next (s.bare.returns .none) := by
  rw [exec_setImageFile_eq, h]
  rfl

theorem exec_setImageFile_of_bad_length {id : Nat} (h : s.firstFlush.1 = .ok true)
    (hlen : d64Layout (s.bare.lengthOf id) = none) (ro : Bool) :
    exec (.setImageFile (some id) ro) s = .next (s.bare.raise .badLength) := by
  rw [exec_setImageFile_eq, h, attachAfter, attachImage_of_bad_length hlen]
  rfl

/-- The load of track 18 of an image of `35 + k` tracks. -/
def State.imageRead (s : State) (id : Nat) (ro err : Bool) (k : Nat) : Bool × State :=
  s.bare.attachRead id ro err (35 + k)

theorem exec_setImageFile_of_length {id k : Nat} {err : Bool} (h : s.firstFlush.1 = .ok true) (hk : k ≤ 7)
    (hlen : s.bare.lengthOf id = (683 + 17 * k) * (if err then 257 else 256)) (ro : Bool) :
    exec (.setImageFile (some id) ro) s
      = .next ((s.imageRead id ro err k).2.returns
          (if (s.imageRead id ro err k).1 then .none else .hostIoError .read)) := by
  have hlayout : d64Layout (s.bare.lengthOf id) = some (683 + 17 * k, err) := by
    rw [hlen, d64Layout_of_length k hk err]
  have htracks : (683 + 17 * k - 683) / 17 = k := by omega
  rw [exec_setImageFile_eq, h, attachAfter, attachImage_of_layout hlayout rfl rfl, htracks, ← State.imageRead, finish_eq]
  cases (s.imageRead id ro err k).1 <;> rfl

/-- A load that fails leaves the buffers cleared, with the image attached. -/
theorem State.imageRead_of_false {id k : Nat} {ro err : Bool} (h : (s.imageRead id ro err k).1 = false) :
    (s.imageRead id ro err k).2.tbm = s.bareTbm.attachedAt18 id ro err (35 + k) :=
  readTrack_tbm_of_false h

/-! #### The load of track 18 -/

theorem trackOffset_beyond {p : Params} (h : TrackTablesOk p) {k : Nat} (hk : k ≤ 7) :
    trackOffset p (36 + k) = (683 + 17 * k) * 256 := by
  obtain ⟨-, hoffset, hseventeen, -⟩ := h
  induction k with
  | zero => exact hoffset
  | succ k ih =>
    rw [← Nat.add_assoc, trackOffset_succ, ih (by omega), hseventeen (36 + k) (by omega) (by omega)]
    omega

/-- An image of an accepted length holds track 18 and its codes. -/
theorem track18_in_image {p : Params} (h : TrackTablesOk p) :
    trackOffset p 18 + 256 * sectorsPerTrack p 18 ≤ 683 * 256 :=
  (trackOffset_mono p (show 19 ≤ 36 by decide)).trans_eq (trackOffset_beyond h (Nat.zero_le 7))

theorem attachedAt18_nTracks {k : Nat} (hk : k ≤ 7) (t : Tbm) (id : Nat) (ro err : Bool) :
    (t.attachedAt18 id ro err (35 + k)).nTracks.toNat = 35 + k := by
  refine (BitVec.toNat_ofNat _ _).trans (Nat.mod_eq_of_lt ?_)
  omega

/-- With nothing to flush, the state from which track 18 is loaded. -/
def State.attachedState (s : State) (id : Nat) (ro err : Bool) (k : Nat) : State :=
  s.setTbm (s.bareTbm.attachedAt18 id ro err (35 + k))

theorem State.imageRead_of_clean (h : s.firstFlush = (.ok true, s)) (id : Nat) (ro err : Bool) (k : Nat) :
    s.imageRead id ro err k = readTrack (-1) (s.attachedState id ro err k) := by
  rw [State.imageRead, State.attachRead, State.bare, h]
  rfl

theorem readTrack_attached_of_fails {id k : Nat} {err : Bool} (hk : k ≤ 7)
    (h : s.nextFails ∨ err = true ∧ s.ioNext.nextFails) (ro : Bool) :
    (readTrack (-1) (s.attachedState id ro err k)).1 = false := by
  refine readTrack_of_loadFails (id := id) (t := 18) rfl rfl (by decide) ?_ ?_
  · exact Nat.le_trans (by omega) (attachedAt18_nTracks hk s.bareTbm id ro err).ge
  · rw [State.LoadFails, State.attachedState, State.setTbm_ioNext]
    obtain hfails | ⟨herr, hfails⟩ := h
    · exact .inr (.inl hfails)
    · exact .inr (.inr ⟨herr, .inr hfails⟩)

theorem readTrack_attached_of_good {id k : Nat} {err : Bool} (hp : TrackTablesOk s.params) (hk : k ≤ 7)
    (hlen : s.lengthOf id = (683 + 17 * k) * (if err then 257 else 256)) (hdraws : s.noFailure (if err then 2 else 1))
    (ro : Bool) :
    (readTrack (-1) (s.attachedState id ro err k)).1 = true
      ∧ TrackLoaded (s.attachedState id ro err k) id 18 (readTrack (-1) (s.attachedState id ro err k)).2.tbm := by
  have hsectors := track18_in_image hp
  have htracks := attachedAt18_nTracks hk s.bareTbm id ro err
  refine readTrack_of_not_loadFails (id := id) (t := 18) hp rfl rfl (by decide) (Nat.le_trans (by omega) htracks.ge)
    (State.not_loadFails ?_ (fun herr => ?_) ((s.setTbm_noFailure _ _).2 hdraws))
  · show trackOffset s.params 18 + 256 * sectorsPerTrack s.params 18 ≤ s.lengthOf id
    rw [hlen]
    refine hsectors.trans (Nat.mul_le_mul (Nat.le_add_right _ _) ?_)
    split <;> decide
  · have hbase : errBase s.params (s.bareTbm.attachedAt18 id ro err (35 + k)) = (683 + 17 * k) * 256 := by
      rw [errBase, htracks, Nat.add_right_comm]
      exact trackOffset_beyond hp hk
    show errBase s.params (s.bareTbm.attachedAt18 id ro err (35 + k)) + trackOffset s.params 18 / 256
      + sectorsPerTrack s.params 18 ≤ s.lengthOf id
    obtain rfl : err = true := herr
    rw [hbase, hlen, if_pos rfl]
    omega

/-- Settles O23: the ends of the call one by one, then the load of track 18 with nothing to flush. -/
theorem setImageFile_spec : Obligations.SetImageFile := by
  constructor
  · intro s ro
    refine ⟨s.afterFlush, ?_⟩
    intro d bare
    have hbare : s.bareTbm = bare := s.bareTbm_eq
    refine ⟨s.afterFlush_of_no_image, fun himage => ⟨exec_flushTrack_of_image himage, ?_⟩, fun himage hresult file => ?_,
      fun hresult => ⟨?_, fun id hlen => ?_, fun id k err hk hlen => ?_⟩⟩
    · rw [s.afterFlush_result himage]
      exact s.firstFlush_result.imp (congrArg _) (congrArg _)
    · have hflush : s.firstFlush.1 = .error .write := by
        refine s.firstFlush_result.resolve_left fun hok => ?_
        rw [s.afterFlush_result himage, hok] at hresult
        cases hresult
      rw [exec_setImageFile_of_flush_error hflush, ← hbare]
      rfl
    · rw [exec_setImageFile_none (State.firstFlush_of_result hresult), ← hbare]
      rfl
    · rw [exec_setImageFile_of_bad_length (State.firstFlush_of_result hresult) (d64Layout_eq_none hlen), ← hbare]
      rfl
    · intro attached
      have hattached : s.bareTbm.attachedAt18 id ro err (35 + k) = attached := by
        rw [hbare]
        rfl
      have hflush := State.firstFlush_of_result hresult
      have hcall := exec_setImageFile_of_length hflush hk hlen ro
      have hread : exec (.readTrack (-1)) { s.afterFlush with tbm := attached }
          = .next ((s.imageRead id ro err k).2.returns (.bool (s.imageRead id ro err k).1)) := by
        rw [← hattached]
        exact exec_readTrack_returns (-1) (s.bare.setTbm (s.bareTbm.attachedAt18 id ro err (35 + k))) _
      refine ⟨_, hread, ?_, fun htrue => ?_, fun hfalse => ⟨?_, ?_⟩⟩
      · cases (s.imageRead id ro err k).1
        · exact .inr rfl
        · exact .inl rfl
      · rw [hcall, if_pos (Result.bool.inj htrue)]
        rfl
      · exact (State.imageRead_of_false (Result.bool.inj hfalse)).trans hattached
      · rw [hcall, Result.bool.inj hfalse]
        rfl
  · intro s id k ro err hclean hk hlen p spt
    have hflush := State.firstFlush_of_clean hclean
    have hbare : s.bare = s.setTbm s.bareTbm := by rw [State.bare, hflush]
    have hcall := exec_setImageFile_of_length (id := id) (congrArg Prod.fst hflush) hk (by rw [hbare]; exact hlen) ro
    rw [State.imageRead_of_clean hflush] at hcall
    have hkeeps := readTrack_keepsOthers (-1) (s.attachedState id ro err k)
    have hstores := readTrack_stores (-1) (s.attachedState id ro err k)
    refine ⟨fun hp hdraws => ?_, fun hfails => ?_⟩
    · obtain ⟨hresult, hloaded⟩ := readTrack_attached_of_good hp.2 hk hlen hdraws ro
      have hdisk := readTrack_sameDisk (-1) (s.attachedState id ro err k)
      obtain ⟨hcurrent, hdirty⟩ := readTrack_current (s.attachedState id ro err k)
      rw [hresult, if_pos rfl] at hcall
      refine ⟨_, hcall, rfl, hdisk.imageFile, hdisk.readOnly, hdisk.hasErrorTable, ?_, hcurrent, hdirty, hloaded.data,
        fun j => ?_, hloaded.image, hkeeps.fdc (by decide), hkeeps.tape (by decide), hstores⟩
      · exact (congrArg BitVec.toNat hdisk.nTracks).trans (attachedAt18_nTracks hk _ _ _ _)
      · have hbase : errBase p (readTrack (-1) (s.attachedState id ro err k)).2.tbm
            = errBase p (s.attachedState id ro err k).tbm := by rw [errBase, errBase, hdisk.nTracks]
        rw [State.returns_tbm, hbase]
        exact hloaded.codes j
    · have hresult := readTrack_attached_of_fails hk hfails (id := id) ro
      have htbm := readTrack_tbm_of_false hresult
      rw [hresult, if_neg Bool.false_ne_true] at hcall
      refine ⟨_, hcall, rfl, congrArg Tbm.imageFile htbm, congrArg Tbm.currentTrack htbm,
        fun a => congrArg (fun x : Tbm => x.gcr.read a) htbm, fun a => congrArg (fun x : Tbm => x.d64.read a) htbm,
        fun j hj => (congrArg (fun x : Tbm => x.bad.read j) htbm).trans ?_, hkeeps.fdc (by decide), hkeeps.tape (by decide),
        hstores⟩
      exact (badAllOk_read j).trans (if_pos hj)

end Sys2Proof.Machine

/-! ### The floppy controller: registers, peeks, outputs and reset

What each port answers (42_fdc_ports.md R300 to R308, R316 to R319, 70_reset_and_hazards.md R603). A port access and the
host operation of the same register are two encodings of one meaning. -/

namespace Sys2Proof.Machine

/-- What holds of both encodings of a port access holds of each in their list. -/
theorem forall_mem_encodings {p : Instr → Prop} {port op : Instr} (hport : p port) (hop : p op) :
    ∀ i ∈ [port, op], p i :=
  List.forall_mem_cons.2 ⟨hport, List.forall_mem_singleton.2 hop⟩

/-! #### Registers -/

theorem exec_trackWrite (v : Byte) (s : State) :
    ∀ i ∈ [Instr.wtr v, .writeTrackRegister v], exec i s = .next (writeTrackReg v s) := forall_mem_encodings rfl rfl

theorem exec_trackRead (s : State) :
    ∀ i ∈ [Instr.rtr, .readTrackRegister], exec i s = .next (s.returns (.byte s.fdc.trackRegister)) :=
  forall_mem_encodings rfl rfl

theorem exec_sectorWrite (v : Byte) (s : State) :
    ∀ i ∈ [Instr.wsr v, .writeSectorRegister v], exec i s = .next (writeSectorReg v s) := forall_mem_encodings rfl rfl

theorem exec_sectorRead (s : State) :
    ∀ i ∈ [Instr.rsr, .readSectorRegister], exec i s = .next (s.returns (.byte s.fdc.sectorRegister)) :=
  forall_mem_encodings rfl rfl

theorem exec_statusRead (s : State) : ∀ i ∈ [Instr.st, .readStatusRegister], exec i s = .next (readStatus s) :=
  forall_mem_encodings rfl rfl

theorem exec_dataRead (s : State) : ∀ i ∈ [Instr.rdr, .readDataRegister], exec i s = .next (readData s) :=
  forall_mem_encodings rfl rfl

theorem exec_peekRegister (a : BitVec 2) (s : State) :
    exec (.peekRegister a) s = .next (s.returns (.byte (peekedRegister a s.fdc))) := rfl

/-! #### Outputs and side select -/

theorem exec_getHeadPosition (s : State) :
    exec .getHeadPosition s = .next (s.returns (.word (headPosition s.fdc))) := rfl

theorem exec_getInterruptRequest (s : State) :
    exec .getInterruptRequest s = .next (s.returns (.bool s.fdc.interruptRequestFlag)) := rfl

theorem exec_getDataRequest (s : State) :
    exec .getDataRequest s = .next (s.returns (.bool s.fdc.dataRequestFlag)) := rfl

theorem shiftLeft_or_of_lt (a : Nat) {b k : Nat} (h : b < 2 ^ k) : a <<< k ||| b = a * 2 ^ k + b := by
  rw [← Nat.shiftLeft_add_eq_or_of_lt h, Nat.shiftLeft_eq]

/-- A field moved to bit `k` of a word that has room for it. -/
theorem toNat_setWidth_shiftLeft {w n : Nat} (x : BitVec w) {k : Nat} (h : w + k ≤ n) :
    (x.setWidth n <<< k).toNat = x.toNat <<< k := by
  have hfits : x.toNat <<< k < 2 ^ n := by
    rw [Nat.shiftLeft_eq]
    exact (Nat.mul_lt_mul_of_pos_right x.isLt (Nat.two_pow_pos k)).trans_le
      (Nat.pow_add 2 w k ▸ Nat.pow_le_pow_right (by decide) h)
  rw [BitVec.toNat_shiftLeft, BitVec.toNat_setWidth_of_le (by omega), Nat.mod_eq_of_lt hfits]

/-- The three fields of the head position stand side by side: 8, 1 and 7 bits. -/
theorem headPosition_toNat (f : Fdc) :
    (headPosition f).toNat = f.currentTrack.toNat * 256 + f.currentSide.toNat * 128 + f.sectorRegister.toNat % 128 := by
  have hside := f.currentSide.isLt
  have hsector : f.sectorRegister.toNat % 128 < 2 ^ 7 := Nat.mod_lt _ (by decide)
  have hlow : ((f.sectorRegister.extractLsb' 0 7).setWidth 16).toNat = f.sectorRegister.toNat % 128 := by
    rw [BitVec.toNat_setWidth_of_le (by decide), BitVec.extractLsb'_toNat, Nat.shiftRight_zero]
  rw [headPosition, BitVec.toNat_or, BitVec.toNat_or, toNat_setWidth_shiftLeft _ (by decide),
    toNat_setWidth_shiftLeft _ (by decide), hlow, Nat.or_assoc, shiftLeft_or_of_lt _ hsector,
    shiftLeft_or_of_lt _ (by omega)]
  omega

theorem extractLsb'_zero_one (h : Byte) : h.extractLsb' 0 1 = BitVec.ofBool (h.getLsbD 0) := by
  ext k hk
  obtain rfl : k = 0 := by omega
  simp

theorem exec_setSide (h : Byte) (s : State) :
    exec (.setSide h) s
      = .next ((s.setFdc { s.fdc with currentSide := BitVec.ofBool (h.getLsbD 0) }).returns .none) := by
  rw [← extractLsb'_zero_one]
  rfl

theorem exec_resetFdc (s : State) :
    exec .resetFdc s = .next ((s.setFdc (s.fdc.resetKeepingImage s.params)).returns .none) := rfl

/-- Settles O26: each access by its equation, the head position by its fields. -/
theorem fdcPorts : Obligations.FdcPorts := by
  exact ⟨fun s v => ⟨exec_trackWrite v s, exec_trackRead s, exec_sectorWrite v s, exec_sectorRead s⟩,
    fun s h => ⟨exec_peekRegister 0 s, exec_peekRegister 1 s, exec_peekRegister 2 s, exec_peekRegister 3 s,
      ⟨headPosition s.fdc, exec_getHeadPosition s, headPosition_toNat s.fdc⟩, exec_getInterruptRequest s,
      exec_getDataRequest s, exec_setSide h s⟩,
    exec_resetFdc⟩

/-! #### The status read (42_fdc_ports.md R307, R308) -/

/-- INTRQ after a status read: acknowledged unless a FORCE INTERRUPT is pending. -/
theorem and_forceIntPending (irq pending : Bool) : (irq && pending) = if pending then irq else false := by
  cases pending
  · exact Bool.and_false irq
  · exact Bool.and_true irq

theorem statusByte_of_no_hack {s : State} (h : s.params.busyFlagHack = false) :
    statusByte s = s.fdc.statusRegister := by
  rw [statusByte, h]
  exact BitVec.or_zero

theorem statusByte_of_hack {s : State} (h : s.params.busyFlagHack = true) :
    statusByte s = if s.fdc.busyHackPhase then s.fdc.statusRegister ||| 0x01 else s.fdc.statusRegister := by
  rw [statusByte, h, Bool.true_and]
  cases s.fdc.busyHackPhase
  · exact BitVec.or_zero
  · rfl

theorem readStatus_eq (s : State) :
    readStatus s = (s.setFdc { s.fdc with
      busyHackPhase := if s.params.busyFlagHack then !s.fdc.busyHackPhase else s.fdc.busyHackPhase,
      interruptRequestFlag := if s.fdc.forceIntPending then s.fdc.interruptRequestFlag else false }).returns
        (.byte (statusByte s)) := by
  rw [readStatus, and_forceIntPending]

/-- Settles O27: the status byte and the phase, without the hack and with it. -/
theorem statusRead : Obligations.StatusRead := by
  intro s i hi
  rw [exec_statusRead s i hi, readStatus_eq]
  refine ⟨fun hoff => ?_, fun hon => ?_⟩
  · rw [statusByte_of_no_hack hoff, hoff]
    rfl
  · rw [statusByte_of_hack hon, hon]
    rfl

end Sys2Proof.Machine

/-! ### The data read (42_fdc_ports.md R310, R313; 43_fdc_commands.md R354, R365)

Outside a read transfer, a byte that is not the last, and the last byte by the kind of the transfer. -/

namespace Sys2Proof.Machine

variable {s : State}

theorem not_sectorRead_of_idRead {k : Option TransferKind} (h : k = some .idRead) : k ≠ some .sectorRead := by
  rw [h]
  decide

/-- A read transfer is of a sector or of an ID field (10_state.md R34). -/
def ReadKind (k : Option TransferKind) : Prop := k = some .sectorRead ∨ k = some .idRead

theorem readData_of_no_read (h : ¬ (s.fdc.bufPos < fdcSector ∧ ReadKind (transferKind s.fdc.commandRegister))) :
    readData s = s.returns (.byte s.fdc.dataRegister) := by
  unfold readData
  rw [if_neg fun ⟨hrun, hk⟩ => h ⟨hrun, .inl hk⟩, if_neg fun ⟨hrun, hk⟩ => h ⟨hrun, .inr hk⟩]

/-- A byte that is not the last of its transfer. -/
theorem readData_of_more (hpos : s.fdc.bufPos + 1 < fdcSector) (hk : ReadKind (transferKind s.fdc.commandRegister)) :
    readData s = (transferOut s).returns (.byte (s.fdc.buf.read s.fdc.bufPos)) := by
  have hrun : s.fdc.bufPos < fdcSector := Nat.lt_of_succ_lt hpos
  have hmore : (transferOut s).fdc.bufPos ≠ fdcSector := Nat.ne_of_lt hpos
  unfold readData
  dsimp only
  rw [if_neg hmore, if_neg hmore]
  obtain hk | hk := hk
  · rw [if_pos ⟨hrun, hk⟩]
    rfl
  · rw [if_neg fun ⟨_, hsector⟩ => not_sectorRead_of_idRead hk hsector, if_pos ⟨hrun, hk⟩]
    rfl

theorem readData_of_sector_end (hpos : s.fdc.bufPos + 1 = fdcSector)
    (hk : transferKind s.fdc.commandRegister = some .sectorRead) :
    readData s = (endReadSector (transferOut s)).returns (.byte (s.fdc.buf.read s.fdc.bufPos)) := by
  have hend : (transferOut s).fdc.bufPos = fdcSector := hpos
  unfold readData
  dsimp only
  rw [if_pos hend, if_pos ⟨by omega, hk⟩]
  rfl

theorem readData_of_id_end (hpos : s.fdc.bufPos + 1 = fdcSector)
    (hk : transferKind s.fdc.commandRegister = some .idRead) :
    readData s = (endReadAddress (transferOut s)).returns (.byte (s.fdc.buf.read s.fdc.bufPos)) := by
  have hend : (transferOut s).fdc.bufPos = fdcSector := hpos
  unfold readData
  dsimp only
  rw [if_neg fun ⟨_, hsector⟩ => not_sectorRead_of_idRead hk hsector, if_pos ⟨by omega, hk⟩, if_pos hend]
  rfl

/-! #### The end of a block -/

theorem clearBusyDrq_eq (st : Byte) : clearBusyDrq st = st &&& 0xFC := rfl

theorem nextSector_of_single (h : s.fdc.commandRegister.getLsbD 4 = false) :
    nextSector s = s.setFdc (s.fdc.ended s.fdc.statusRegister) := by
  rw [nextSector, cmdBit, h]
  rfl

/-- The end of a block leaves no transfer once the cursor stands at 512. -/
theorem endBlock_of_end (h : s.fdc.bufPos = fdcSector) : endBlock s = s.setFdc s.fdc.stopped := by
  rw [endBlock, clearBusyDrq_eq, Fdc.stopped, show (512 : Nat) = s.fdc.bufPos from h.symm]

theorem endReadSector_of_single (hend : s.fdc.bufPos = fdcSector) (h : s.fdc.commandRegister.getLsbD 4 = false) :
    endReadSector s = s.setFdc (s.fdc.stopped.ended (s.fdc.statusRegister &&& 0xFC)) := by
  rw [endReadSector, endBlock_of_end hend, nextSector_of_single (s := s.setFdc s.fdc.stopped) h]
  rfl

theorem endReadAddress_of_end (hend : s.fdc.bufPos = fdcSector) :
    endReadAddress s = s.setFdc
      (({ s.fdc.stopped with sectorRegister := s.fdc.buf.read 506 } : Fdc).ended (bit5Status s.params)) := by
  rw [endReadAddress, Fdc.stopped, show (512 : Nat) = s.fdc.bufPos from hend.symm]
  rfl

/-- Settles O35: each clause is one way a data read goes. -/
theorem readData_spec : Obligations.ReadData := by
  intro s i hi
  rw [exec_dataRead s i hi]
  refine ⟨fun hno => ?_, fun hpos hk => ?_, fun hpos hk hsingle => ?_, fun hpos hk => ?_⟩
  · rw [readData_of_no_read hno]
    rfl
  · rw [readData_of_more (Nat.succ_lt_succ hpos) hk]
    rfl
  · have hend : s.fdc.bufPos + 1 = fdcSector := congrArg Nat.succ hpos
    rw [readData_of_sector_end hend hk, endReadSector_of_single (s := transferOut s) hend hsingle]
    rfl
  · have hend : s.fdc.bufPos + 1 = fdcSector := congrArg Nat.succ hpos
    rw [readData_of_id_end hend hk, endReadAddress_of_end (s := transferOut s) hend]
    rfl

end Sys2Proof.Machine

/-! ### The attach of an image (42_fdc_ports.md R320 to R325)

The old image is taken off first, which ends a transfer; then a geometry is found and the length held against it. -/

namespace Sys2Proof.Machine

variable {s : State}

/-! #### The old image taken off -/

/-- The state with the transfer ended and the image taken off. -/
def State.unloaded (s : State) : State := (endTransfer s).setFdc (endTransfer s).fdc.detached

/-- The image `id` attached where a geometry is found that its length fits. -/
def attachFound (id : Nat) (ro : Bool) (t h n : Nat) (s : State) : Except IoError Unit × State :=
  match findGeometry id t h n s with
  | (.ok (a, b, c), u) => attachDisk id ro a b c u
  | (.error k, u) => (.error k, u)

theorem attachFound_of_ok {id t h n a b c : Nat} {u : State} (hf : findGeometry id t h n s = (.ok (a, b, c), u))
    (ro : Bool) : attachFound id ro t h n s = attachDisk id ro a b c u := by
  rw [attachFound, hf]

theorem attachFound_of_error {id t h n : Nat} {k : IoError} {u : State} (hf : findGeometry id t h n s = (.error k, u))
    (ro : Bool) : attachFound id ro t h n s = (.error k, u) := by
  rw [attachFound, hf]

theorem exec_detach (ro : Bool) (t h n : Nat) (s : State) :
    ∀ i ∈ [Instr.setDiskImageFile none ro t h n, .closeFdc], exec i s = .next (s.unloaded.returns .none) :=
  forall_mem_encodings rfl rfl

theorem exec_attach (id : Nat) (ro : Bool) (t h n : Nat) (s : State) :
    exec (.setDiskImageFile (some id) ro t h n) s
      = .next (finish (fun _ => .none) (attachFound id ro t h n s.unloaded)) := rfl

theorem endTransfer_of_idle (h : fdcSector ≤ s.fdc.bufPos) : endTransfer s = s := by
  obtain ⟨-, hend⟩ | ⟨hrun, -⟩ | ⟨hrun, -⟩ := endTransfer_cases s
  · exact hend
  · omega
  · omega

theorem State.unloaded_of_idle (h : fdcSector ≤ s.fdc.bufPos) : s.unloaded = s.setFdc s.fdc.detached := by
  rw [State.unloaded, endTransfer_of_idle h]

/-- The end of a transfer that wrote nothing. -/
theorem endTransfer_of_no_write (hrun : s.fdc.bufPos < fdcSector) (hp : partialWrite s.fdc = false) :
    endTransfer s = s.setFdc s.fdc.stopped := by
  obtain ⟨hidle, -⟩ | ⟨-, -, hend⟩ | ⟨-, hpartial, -⟩ := endTransfer_cases s
  · omega
  · exact hend
  · rw [hp] at hpartial
    cases hpartial

/-! #### The end of a write transfer with a byte (43_fdc_commands.md R381, 60_exceptions.md R502) -/

/-- The FDC at the end of a write transfer, bit 5 set where its write fails (notes/assumptions/17.md). -/
def Fdc.writeEnded (f : Fdc) (fails : Bool) : Fdc :=
  { f.stopped with
    buf := f.padded.buf
    statusRegister := if fails then f.statusRegister &&& 0xFC ||| 0x20 else f.statusRegister &&& 0xFC }

theorem clearBusyDrq_or_stBit5 (st : Byte) : clearBusyDrq (st ||| stBit5) = st &&& 0xFC ||| 0x20 := by
  rw [clearBusyDrq_eq, BitVec.and_or_distrib_right]
  rfl

theorem bufPos_of_partialWrite {f : Fdc} (h : partialWrite f = true) : f.bufPos < fdcSector := by
  simp only [partialWrite, Bool.and_eq_true, decide_eq_true_eq] at h
  obtain ⟨⟨hpos, -⟩, -⟩ := h
  exact hpos

theorem endTransfer_of_flushPartial {u : State} (hp : partialWrite s.fdc = true) (hflush : flushPartial s = u)
    (hpos : u.fdc.bufPos < fdcSector) :
    endTransfer s = u.setFdc { u.fdc with
      bufPos := fdcSector, dataRequestFlag := false, statusRegister := clearBusyDrq u.fdc.statusRegister } := by
  unfold endTransfer
  dsimp only
  rw [if_pos hp, hflush, if_pos hpos]

/-- Everything the end of a write transfer can do, by the draw of its write. -/
theorem endTransfer_of_partialWrite {id : Nat} (hp : partialWrite s.fdc = true) (himage : s.fdc.imageFile = some id) :
    s.ioFails = true ∧ endTransfer s = s.ioNext.setFdc (s.fdc.writeEnded true)
      ∨ s.ioFails = false
        ∧ endTransfer s
          = (s.written id s.fdc.xferOffset s.fdc.padded.buf fdcSector).setFdc (s.fdc.writeEnded false) := by
  have hpos := bufPos_of_partialWrite hp
  obtain ⟨hfails, hflush⟩ | ⟨hgood, hflush⟩ := flushPartial_cases himage
  · refine .inl ⟨hfails, (endTransfer_of_flushPartial hp hflush hpos).trans ?_⟩
    rw [State.setFdc_fdc, clearBusyDrq_or_stBit5]
    rfl
  · exact .inr ⟨hgood, endTransfer_of_flushPartial hp hflush hpos⟩

theorem Fdc.padded_read {f : Fdc} {k : Nat} (hk : k < fdcSector) :
    f.padded.buf.read k = if k < f.bufPos then f.buf.read k else 0 := by
  rw [Fdc.padded, Memory.read_writeBytes, List.length_replicate]
  split
  · next hpad => rw [if_neg (by omega), List.getD_replicate _ (by omega)]
  · next hkept => rw [if_pos (by omega)]

/-- The bytes of a write transfer in the old image: those taken in, then zeros (43_fdc_commands.md R381). -/
theorem State.written_padded_byteAt (s : State) (id x a : Nat) :
    (s.written id s.fdc.xferOffset s.fdc.padded.buf fdcSector).byteAt x a
      = if x = id ∧ s.fdc.xferOffset ≤ a ∧ a < s.fdc.xferOffset + fdcSector
        then (if a - s.fdc.xferOffset < s.fdc.bufPos then s.fdc.buf.read (a - s.fdc.xferOffset) else 0)
        else s.byteAt x a := by
  rw [State.written_byteAt]
  refine ite_congr rfl (fun hin => ?_) fun _ => rfl
  obtain ⟨-, hle, hlt⟩ := hin
  exact Fdc.padded_read (by omega)

/-! #### Detach -/

theorem State.unloaded_idle (s : State) : fdcSector ≤ s.unloaded.fdc.bufPos := by
  obtain ⟨-, hb⟩ := detach_changes s
  exact Fdc.busy_false_iff.1 hb

/-- Taking the image off a second time changes nothing. -/
theorem State.unloaded_returns_unloaded (s : State) (r : Result) :
    (s.unloaded.returns r).unloaded = s.unloaded.returns r :=
  State.unloaded_of_idle (s := s.unloaded.returns r) s.unloaded_idle

theorem findGeometry_returns (id t h n : Nat) (s : State) (r : Result) :
    findGeometry id t h n (s.returns r) = ((findGeometry id t h n s).1, (findGeometry id t h n s).2.returns r) := by
  unfold findGeometry
  rw [memRead_returns]
  dsimp only
  split
  · split <;> rfl
  · obtain ⟨b | _ | _, u⟩ := memRead id 0 fdcSector s
    · dsimp only
      split <;> rfl
    · rfl
    · rfl

theorem attachDisk_returns (id : Nat) (ro : Bool) (a b c : Nat) (s : State) (r : Result) :
    attachDisk id ro a b c (s.returns r) = ((attachDisk id ro a b c s).1, (attachDisk id ro a b c s).2.returns r) := by
  unfold attachDisk
  rw [State.returns_store]
  split <;> rfl

theorem attachFound_returns (id : Nat) (ro : Bool) (t h n : Nat) (s : State) (r : Result) :
    attachFound id ro t h n (s.returns r)
      = ((attachFound id ro t h n s).1, (attachFound id ro t h n s).2.returns r) := by
  unfold attachFound
  rw [findGeometry_returns]
  obtain ⟨k | ⟨a, b, c⟩, u⟩ := findGeometry id t h n s
  · rfl
  · exact attachDisk_returns id ro a b c u r

theorem exec_attach_detached (id : Nat) (ro : Bool) (t h n : Nat) (s : State) (r : Result) :
    exec (.setDiskImageFile (some id) ro t h n) (s.unloaded.returns r)
      = exec (.setDiskImageFile (some id) ro t h n) s := by
  rw [exec_attach, exec_attach, State.unloaded_returns_unloaded, attachFound_returns, finish_eq, finish_eq]
  rfl

/-- Settles O40: the detach by what is running, and an attach with nothing left to take off. -/
theorem diskDetach : Obligations.DiskDetach := by
  intro s ro t h n
  refine ⟨fun i hi => ?_, fun id => ⟨_, exec_detach ro t h n s _ List.mem_cons_self, (exec_attach_detached ..).symm⟩⟩
  rw [exec_detach ro t h n s i hi]
  refine ⟨fun hidle => ?_, fun hrun hp => ?_, fun id hp himage => ⟨_, s.fdc.padded.buf, rfl, rfl, ?_⟩⟩
  · rw [State.unloaded_of_idle hidle]
    rfl
  · rw [State.unloaded, endTransfer_of_no_write hrun hp]
    rfl
  · obtain ⟨hfails, hend⟩ | ⟨hgood, hend⟩ := endTransfer_of_partialWrite hp himage
    · rw [State.unloaded, hend, hfails]
      refine ⟨s.ioNext_tbm, s.ioNext_tape, rfl, fun k hk => Fdc.padded_read hk, fun _ => s.ioNext_stores,
        fun hgood => ?_⟩
      exact absurd (hfails.symm.trans (State.noFailure_ioFails hgood)) (by decide)
    · have hkeeps := s.written_keepsBlocks id s.fdc.xferOffset s.fdc.padded.buf fdcSector
      rw [State.unloaded, hend, hgood]
      refine ⟨hkeeps.tbm, hkeeps.tape, rfl, fun k hk => Fdc.padded_read hk, fun hfails => ?_,
        fun _ => ⟨s.written_padded_byteAt id, fun x hx => State.written_store_of_ne hx _ _ _⟩⟩
      exact absurd (hgood.symm.trans hfails) (by decide)

end Sys2Proof.Machine

/-! ### The geometry of an image and the attach in whole (42_fdc_ports.md R320 to R323, 20_memory.md R92) -/

namespace Sys2Proof.Machine

variable {s : State}

/-! #### Where a geometry is found -/

theorem findGeometry_of_explicit_illegal {id t h n : Nat} (hpos : 0 < t ∧ 0 < h ∧ 0 < n)
    (hbad : 2 < h ∨ 255 < t ∨ 255 < n) : findGeometry id t h n s = (.error .badGeometry, s) := by
  unfold findGeometry
  rw [if_pos hpos, if_pos hbad]

theorem findGeometry_of_explicit {id t h n : Nat} (hpos : 0 < t ∧ 0 < h ∧ 0 < n)
    (hlegal : ¬ (2 < h ∨ 255 < t ∨ 255 < n)) : findGeometry id t h n s = (.ok (t, h, n), s) := by
  unfold findGeometry
  rw [if_pos hpos, if_neg hlegal]

/-- The geometry of the size table, or `badGeometry`. -/
def State.tableGeometry (s : State) (id : Nat) : Except IoError (Nat × Nat × Nat) :=
  (sizeGeometry s.params.geometryBySize (s.lengthOf id)).elim (.error .badGeometry) .ok

/-- The 16-bit word at `a` of store `id`, least significant byte first. -/
def State.wordAt (s : State) (id a : Nat) : Nat := (s.byteAt id a).toNat + 256 * (s.byteAt id (a + 1)).toNat

/-- The first sector of store `id` is a FAT boot sector that holds a geometry (42_fdc_ports.md R321). -/
def State.HasBootGeometry (s : State) (id : Nat) : Prop :=
  s.wordAt id 11 = 512 ∧ 1 ≤ s.wordAt id 24 ∧ s.wordAt id 24 ≤ 255 ∧ (s.wordAt id 26 = 1 ∨ s.wordAt id 26 = 2)
    ∧ 0 < s.wordAt id 19 ∧ s.wordAt id 19 % (s.wordAt id 24 * s.wordAt id 26) = 0
    ∧ 1 ≤ s.wordAt id 19 / (s.wordAt id 24 * s.wordAt id 26)
    ∧ s.wordAt id 19 / (s.wordAt id 24 * s.wordAt id 26) ≤ 255

/-- The geometry that boot sector gives: tracks, sides, sectors per track. -/
def State.bootGeometry (s : State) (id : Nat) : Nat × Nat × Nat :=
  (s.wordAt id 19 / (s.wordAt id 24 * s.wordAt id 26), s.wordAt id 26, s.wordAt id 24)

/-- The first sector of store `id`. -/
def State.bootSector (s : State) (id : Nat) : List Byte := (s.store id).image.2.readBytes 0 fdcSector

theorem le16_bootSector (id : Nat) {a : Nat} (h : a + 1 < fdcSector) : le16 (s.bootSector id) a = s.wordAt id a := by
  rw [le16, State.bootSector, Memory.getD_readBytes _ (by omega), Memory.getD_readBytes _ h, Nat.zero_add, Nat.zero_add]
  rfl

theorem bpbGeometry_bootSector (s : State) (id : Nat) :
    s.HasBootGeometry id ∧ bpbGeometry (s.bootSector id) = some (s.bootGeometry id)
      ∨ ¬ s.HasBootGeometry id ∧ bpbGeometry (s.bootSector id) = none := by
  unfold bpbGeometry
  rw [le16_bootSector id (by decide), le16_bootSector id (by decide), le16_bootSector id (by decide),
    le16_bootSector id (by decide)]
  by_cases hboot : s.HasBootGeometry id
  · exact .inl ⟨hboot, if_pos hboot⟩
  · exact .inr ⟨hboot, if_neg hboot⟩

/-! #### The geometry inferred -/

theorem memRead_of_short {id off n : Nat} (h : s.lengthOf id < off + n) : memRead id off n s = (.short, s) := if_pos h

theorem memRead_of_fails {id off n : Nat} (hlen : off + n ≤ s.lengthOf id) (h : s.nextFails) :
    memRead id off n s = (.ioerr, s.ioNext) := (if_neg (Nat.not_lt.2 hlen)).trans (if_pos h)

section
variable {id t h n : Nat} (hzero : ¬ (0 < t ∧ 0 < h ∧ 0 < n))
include hzero

theorem findGeometry_of_short (hlen : s.lengthOf id < fdcSector) :
    findGeometry id t h n s = (s.tableGeometry id, s) := by
  unfold findGeometry
  rw [if_neg hzero, memRead_of_short (by omega), State.tableGeometry, State.lengthOf]
  cases sizeGeometry s.params.geometryBySize (s.store id).length <;> rfl

theorem findGeometry_of_read_fails (hlen : fdcSector ≤ s.lengthOf id) (hfails : s.nextFails) :
    findGeometry id t h n s = (.error .read, s.ioNext) := by
  unfold findGeometry
  rw [if_neg hzero, memRead_of_fails (by omega) hfails]

theorem findGeometry_of_read (hlen : fdcSector ≤ s.lengthOf id) (hgood : s.noFailure 1) :
    findGeometry id t h n s = ((bpbGeometry (s.bootSector id)).elim (s.tableGeometry id) .ok, s.ioNext) := by
  have hread : memRead id 0 fdcSector s = (.ok (s.bootSector id), s.ioNext) :=
    memRead_eq_ok_iff.2 ⟨by omega, State.noFailure_ioFails hgood, rfl, rfl⟩
  unfold findGeometry
  rw [if_neg hzero, hread, State.tableGeometry, State.lengthOf]
  dsimp only
  cases bpbGeometry (s.bootSector id) with
  | none => cases sizeGeometry s.params.geometryBySize (s.store id).length <;> rfl
  | some g => rfl

theorem findGeometry_of_boot (hlen : fdcSector ≤ s.lengthOf id) (hgood : s.noFailure 1) (hboot : s.HasBootGeometry id) :
    (findGeometry id t h n s).1 = .ok (s.bootGeometry id) := by
  obtain ⟨-, hbpb⟩ | ⟨hno, -⟩ := bpbGeometry_bootSector s id
  · rw [findGeometry_of_read hzero hlen hgood, hbpb]
    rfl
  · exact absurd hboot hno

/-- Where no boot sector gives a geometry and no read fails, the size table decides. -/
theorem findGeometry_of_table (hno : s.lengthOf id < fdcSector ∨ s.noFailure 1 ∧ ¬ s.HasBootGeometry id) :
    (findGeometry id t h n s).1 = s.tableGeometry id := by
  by_cases hlen : s.lengthOf id < fdcSector
  · rw [findGeometry_of_short hzero hlen]
  · obtain ⟨hgood, hno⟩ := hno.resolve_left hlen
    obtain ⟨hboot, -⟩ | ⟨-, hbpb⟩ := bpbGeometry_bootSector s id
    · exact absurd hboot hno
    · rw [findGeometry_of_read hzero (Nat.not_lt.1 hlen) hgood, hbpb]
      rfl

end

theorem tableGeometry_of_row {id : Nat} {g : GeometryRow}
    (h : (s.params.geometryBySize.find? fun r => r.length == s.lengthOf id) = some g) :
    s.tableGeometry id = .ok (g.tracks, g.sides, g.sectors) := by
  rw [State.tableGeometry, sizeGeometry, h]
  rfl

theorem tableGeometry_of_no_row {id : Nat}
    (h : (s.params.geometryBySize.find? fun r => r.length == s.lengthOf id) = none) :
    s.tableGeometry id = .error .badGeometry := by
  rw [State.tableGeometry, sizeGeometry, h]
  rfl

/-! #### The attach -/

/-- FDC with the image `id` in geometry `(a, b, c)`. -/
def Fdc.withImage (f : Fdc) (id : Nat) (ro : Bool) (a b c : Nat) : Fdc :=
  { f with
    imageFile := some id, readOnly := ro, nTracks := BitVec.ofNat 8 a, nSides := BitVec.ofNat 2 b,
    nSectorsPerTrack := BitVec.ofNat 8 c }

theorem attachDisk_of_fits {id a b c : Nat} (ro : Bool) (h : s.lengthOf id = a * b * c * fdcSector) :
    attachDisk id ro a b c s = (.ok (), s.setFdc (s.fdc.withImage id ro a b c)) := if_pos h

theorem attachDisk_of_not_fits {id a b c : Nat} (ro : Bool) (h : s.lengthOf id ≠ a * b * c * fdcSector) :
    attachDisk id ro a b c s = (.error .badLength, s) := if_neg h

theorem attachDisk_stores (id : Nat) (ro : Bool) (a b c : Nat) (s : State) :
    (attachDisk id ro a b c s).2.stores = s.stores := by
  unfold attachDisk
  split <;> rfl

theorem attachFound_stores (id : Nat) (ro : Bool) (t h n : Nat) (s : State) :
    (attachFound id ro t h n s).2.stores = s.stores := by
  have hfind := findGeometry_stores id t h n s
  unfold attachFound
  split
  · next hf =>
    rw [hf] at hfind
    exact (attachDisk_stores ..).trans hfind
  · next hf =>
    rw [hf] at hfind
    exact hfind

/-- The state `setDiskImageFile` with a file leaves. -/
def State.attached (s : State) (id : Nat) (ro : Bool) (t h n : Nat) : State :=
  finish (fun _ => .none) (attachFound id ro t h n s.unloaded)

theorem State.attached_keepsOthers (s : State) (id : Nat) (ro : Bool) (t h n : Nat) :
    KeepsOthers .fdc s (s.attached id ro t h n) := by
  obtain ⟨hkeeps, -⟩ := setDiskImageFile_changes (some id) ro t h n s
  exact hkeeps.trans ((keepsBlocks_finish _ _).keepsOthers .fdc)

theorem KeepsOthers.tbm {b : SubBlock} {t : State} (h : KeepsOthers b s t) (hb : b ≠ .tbm) : t.tbm = s.tbm := by
  obtain ⟨-, -, ht, -⟩ := h
  exact ht hb

theorem State.attached_stores {id : Nat} {ro : Bool} {t h n : Nat} (hidle : fdcSector ≤ s.fdc.bufPos) :
    (s.attached id ro t h n).stores = s.stores := by
  rw [State.attached, finish_stores, attachFound_stores, State.unloaded_of_idle hidle, State.setFdc_stores]

/-- The FDC and the result of an attach of image `id`, from `s`, in geometry `(a, b, c)`: by whether the length fits. -/
def AttachEnds (s : State) (id : Nat) (ro : Bool) (a b c : Nat) (f : Fdc) (r : Result) : Prop :=
  (s.lengthOf id = a * b * c * fdcSector → r = .none ∧ f = s.fdc.detached.withImage id ro a b c)
    ∧ (s.lengthOf id ≠ a * b * c * fdcSector → r = .hostIoError .badLength ∧ f = s.fdc.detached)

theorem attachEnds_of_ok {id t h n a b c : Nat} (ro : Bool) (hidle : fdcSector ≤ s.fdc.bufPos)
    (hf : (findGeometry id t h n (s.setFdc s.fdc.detached)).1 = .ok (a, b, c)) :
    AttachEnds s id ro a b c (s.attached id ro t h n).fdc (s.attached id ro t h n).result := by
  have hfdc := (findGeometry_keepsBlocks id t h n (s.setFdc s.fdc.detached)).fdc
  have hstores := findGeometry_stores id t h n (s.setFdc s.fdc.detached)
  rw [State.attached, State.unloaded_of_idle hidle]
  rcases hfind : findGeometry id t h n (s.setFdc s.fdc.detached) with ⟨out, u⟩
  rw [hfind] at hfdc hstores hf
  obtain rfl : out = .ok (a, b, c) := hf
  have hlen : u.lengthOf id = s.lengthOf id := congrArg (fun m => (lookupStore m id).length) hstores
  rw [attachFound_of_ok hfind]
  refine ⟨fun hfits => ?_, fun hnot => ?_⟩
  · rw [attachDisk_of_fits ro (hlen.trans hfits)]
    exact ⟨rfl, congrArg (Fdc.withImage · id ro a b c) hfdc⟩
  · rw [attachDisk_of_not_fits ro (hlen ▸ hnot)]
    exact ⟨rfl, hfdc⟩

theorem attached_of_error {id t h n : Nat} {k : IoError} (ro : Bool) (hidle : fdcSector ≤ s.fdc.bufPos)
    (hf : (findGeometry id t h n (s.setFdc s.fdc.detached)).1 = .error k) :
    (s.attached id ro t h n).result = .hostIoError k ∧ (s.attached id ro t h n).fdc = s.fdc.detached := by
  have hfdc := (findGeometry_keepsBlocks id t h n (s.setFdc s.fdc.detached)).fdc
  rw [State.attached, State.unloaded_of_idle hidle]
  rcases hfind : findGeometry id t h n (s.setFdc s.fdc.detached) with ⟨out, u⟩
  rw [hfind] at hfdc hf
  obtain rfl : out = .error k := hf
  rw [attachFound_of_error hfind]
  exact ⟨rfl, hfdc⟩

/-- Settles O38: an illegal geometry, and a legal one by the length. -/
theorem diskAttachExplicit : Obligations.DiskAttachExplicit := by
  intro s id t h n ro hidle ht hh hn
  rw [exec_attach, State.unloaded_of_idle hidle]
  refine ⟨fun hbad => ?_, fun hh' ht' hn' hlen => ?_, fun hh' ht' hn' hlen => ?_⟩
  · rw [attachFound_of_error (findGeometry_of_explicit_illegal ⟨ht, hh, hn⟩ hbad)]
    rfl
  · rw [attachFound_of_ok (findGeometry_of_explicit ⟨ht, hh, hn⟩ (by omega)),
      attachDisk_of_not_fits (s := s.setFdc s.fdc.detached) ro hlen]
    rfl
  · rw [attachFound_of_ok (findGeometry_of_explicit ⟨ht, hh, hn⟩ (by omega)),
      attachDisk_of_fits (s := s.setFdc s.fdc.detached) ro hlen]
    rfl

/-- Settles O39: the boot sector, the size table by its row, and the failed read. -/
theorem diskAttachInferred : Obligations.DiskAttachInferred := by
  intro s id t h n ro hidle hzero
  have hzero : ¬ (0 < t ∧ 0 < h ∧ 0 < n) := by omega
  have hkeeps := s.attached_keepsOthers id ro t h n
  refine ⟨_, exec_attach id ro t h n s, State.attached_stores hidle, hkeeps.tbm (by decide), hkeeps.tape (by decide),
    fun hlen hgood hboot => ?_, fun hno => ⟨fun g hrow => ?_, fun hrow => ?_⟩, fun hlen hfails => ?_⟩
  · exact attachEnds_of_ok ro hidle (findGeometry_of_boot (s := s.setFdc s.fdc.detached) hzero hlen hgood hboot)
  · exact attachEnds_of_ok ro hidle
      ((findGeometry_of_table (s := s.setFdc s.fdc.detached) hzero hno).trans (tableGeometry_of_row hrow))
  · exact attached_of_error ro hidle
      ((findGeometry_of_table (s := s.setFdc s.fdc.detached) hzero hno).trans (tableGeometry_of_no_row hrow))
  · exact attached_of_error ro hidle
      (congrArg Prod.fst (findGeometry_of_read_fails (s := s.setFdc s.fdc.detached) hzero hlen hfails))

end Sys2Proof.Machine

/-! ### The command write (43_fdc_commands.md R340 to R342)

A byte written to the command register does what the instruction it is read as does, and selects the same body. -/

namespace Sys2Proof.Machine

variable {s : State}

/-! #### The body a byte selects (43_fdc_commands.md R342) -/

/-- A byte with high three bits `m` matches no row of four bits outside that group. -/
theorem not_match_four_of_match_three {c m n : Byte} (h : c &&& 0xE0#8 = m) (hn : n &&& 0xE0#8 ≠ m) :
    c &&& 0xF0#8 ≠ n := by
  rintro rfl
  rw [BitVec.and_assoc] at hn
  exact hn h

theorem execute_of_readSector {c : Byte} (h : c &&& 0xE0#8 = 0x80#8) :
    execute c = cmdReadSector (cmdBit c 3) (cmdBit c 1) := by
  funext u
  rw [execute, if_neg (not_match_four_of_match_three h (by decide)),
    if_neg (not_match_four_of_match_three h (by decide)), h, if_neg (by decide), if_neg (by decide), if_neg (by decide),
    if_pos rfl]

theorem execute_of_writeSector {c : Byte} (h : c &&& 0xE0#8 = 0xA0#8) :
    execute c = cmdWriteSector (cmdBit c 3) (cmdBit c 1) := by
  funext u
  rw [execute, if_neg (not_match_four_of_match_three h (by decide)),
    if_neg (not_match_four_of_match_three h (by decide)), h, if_neg (by decide), if_neg (by decide), if_neg (by decide),
    if_neg (by decide), if_pos rfl]

/-! #### The instruction a byte is read as -/

/-- What the row of a command other than FORCE INTERRUPT means is what the write of its byte does. -/
theorem next_accept_eq_writeCommand {c d : Byte} {body : State → State} (hd : d = c) (hforce : c &&& 0xF0#8 ≠ 0xD0#8)
    (hbody : ∀ u, execute c u = body u) :
    Host.Outcome.next (φ := Fault) (ρ := Refusal) ((acceptCommand d body s).returns .none)
      = .next ((writeCommand c s).returns .none) := by
  rw [writeCommand, if_neg hforce, funext hbody, hd]

/-- The decoder and the command write select by the same masks, in the same order. -/
theorem exec_decodeCommand (c : Byte) (s : State) :
    exec (decodeCommand c) s = .next ((writeCommand c s).returns .none) := by
  fun_cases decodeCommand c with
  | case1 b r hrestore =>
    refine next_accept_eq_writeCommand (commandByte_stepRate_of_match_four hrestore) (by simp [hrestore]) fun u => ?_
    simp [execute, hrestore, cmdBit, b]
  | case2 b r _ hseek =>
    refine next_accept_eq_writeCommand (commandByte_stepRate_of_match_four hseek) (by simp [hseek]) fun u => ?_
    simp [execute, hseek, cmdBit, b]
  | case3 b r hrestore hseek hstep =>
    refine next_accept_eq_writeCommand (commandByte_stepRate_of_match_three hstep)
      (not_match_four_of_match_three hstep (by decide)) fun u => ?_
    simp [execute, hrestore, hseek, hstep, cmdBit, b]
  | case4 b r hrestore hseek _ hstepIn =>
    refine next_accept_eq_writeCommand (commandByte_stepRate_of_match_three hstepIn)
      (not_match_four_of_match_three hstepIn (by decide)) fun u => ?_
    simp [execute, hrestore, hseek, hstepIn, cmdBit, b]
  | case5 b r hrestore hseek _ _ hstepOut =>
    refine next_accept_eq_writeCommand (commandByte_stepRate_of_match_three hstepOut)
      (not_match_four_of_match_three hstepOut (by decide)) fun u => ?_
    simp [execute, hrestore, hseek, hstepOut, cmdBit, b]
  | case6 b _ _ _ _ _ hrdsec =>
    exact next_accept_eq_writeCommand (commandByte_of_match_three hrdsec)
      (not_match_four_of_match_three hrdsec (by decide)) (congrFun (execute_of_readSector hrdsec))
  | case7 b _ _ _ _ _ _ hwrsec =>
    exact next_accept_eq_writeCommand (commandByte_of_match_three hwrsec)
      (not_match_four_of_match_three hwrsec (by decide)) (congrFun (execute_of_writeSector hwrsec))
  | case8 b _ _ hstep hstepIn hstepOut hrdsec hwrsec hrdaddr =>
    refine next_accept_eq_writeCommand (commandByte_of_match_four hrdaddr) (by simp [hrdaddr]) fun u => ?_
    simp [execute, hstep, hstepIn, hstepOut, hrdsec, hwrsec, hrdaddr]
  | case9 b _ _ _ _ _ _ _ _ hforceint =>
    rw [writeCommand, if_pos hforceint]
    exact congrArg (fun d => Host.Outcome.next ((acceptForce d (cmdBit c 3) (cmdBit c 2) s).returns .none))
      (commandByte_of_match_four hforceint)
  | case10 b _ _ hstep hstepIn hstepOut hrdsec hwrsec _ _ hrdtrk =>
    refine next_accept_eq_writeCommand (commandByte_of_match_four hrdtrk) (by simp [hrdtrk]) fun u => ?_
    simp [execute, hstep, hstepIn, hstepOut, hrdsec, hwrsec, hrdtrk]
  | case11 b hrestore hseek hstep hstepIn hstepOut hrdsec hwrsec hrdaddr hforceint hrdtrk =>
    have hwrtrk : c &&& 0xF0#8 = 0xF0#8 := by
      simpa [hrestore, hseek, hstep, hstepIn, hstepOut, hrdsec, hwrsec, hrdaddr, hforceint, hrdtrk]
        using command_match c
    refine next_accept_eq_writeCommand (commandByte_of_match_four hwrtrk) hforceint fun u => ?_
    simp [execute, hstep, hstepIn, hstepOut, hrdsec, hwrsec, hwrtrk]

/-! #### The busy-hack phase (43_fdc_commands.md R340, 42_fdc_ports.md R308) -/

theorem selectSide_busyHackPhase (hs pc : Bool) (s : State) :
    (selectSide hs pc s).fdc.busyHackPhase = s.fdc.busyHackPhase := by
  unfold selectSide
  split <;> rfl

theorem cmdReadSector_busyHackPhase (hs pc : Bool) (s : State) :
    (cmdReadSector hs pc s).fdc.busyHackPhase = s.fdc.busyHackPhase := by
  have hsel := selectSide_busyHackPhase hs pc s
  unfold cmdReadSector
  dsimp only
  generalize selectSide hs pc s = s1 at hsel
  split
  · exact hsel
  split
  · split
    · next hread => exact (congrArg Fdc.busyHackPhase (keepsBlocks_of_memRead_eq hread).fdc).trans hsel
    · next hread => exact (congrArg Fdc.busyHackPhase (keepsBlocks_of_memRead_eq hread).fdc).trans hsel
  · exact hsel

theorem cmdWriteSector_busyHackPhase (hs pc : Bool) (s : State) :
    (cmdWriteSector hs pc s).fdc.busyHackPhase = s.fdc.busyHackPhase := by
  have hsel := selectSide_busyHackPhase hs pc s
  unfold cmdWriteSector
  dsimp only
  split
  · exact hsel
  split <;> exact hsel

theorem flushPartial_busyHackPhase (s : State) : (flushPartial s).fdc.busyHackPhase = s.fdc.busyHackPhase := by
  have hwrite := congrArg Fdc.busyHackPhase (imageWrite_keepsBlocks s.fdc.padded (s.setFdc s.fdc.padded)).fdc
  unfold flushPartial
  dsimp only
  split <;> exact hwrite

theorem forceInterrupt_busyHackPhase (i3 i2 : Bool) (s : State) :
    (forceInterrupt i3 i2 s).fdc.busyHackPhase = s.fdc.busyHackPhase := by
  unfold forceInterrupt
  dsimp only
  split
  · exact flushPartial_busyHackPhase _
  · rfl

theorem execute_busyHackPhase (c : Byte) (s : State) : (execute c s).fdc.busyHackPhase = s.fdc.busyHackPhase := by
  unfold execute
  split
  · rfl
  split
  · rfl
  split
  · rfl
  split
  · rfl
  split
  · rfl
  split
  · exact cmdReadSector_busyHackPhase _ _ s
  split
  · exact cmdWriteSector_busyHackPhase _ _ s
  split
  · unfold cmdReadAddress
    split <;> rfl
  split
  · exact forceInterrupt_busyHackPhase _ _ s
  split <;> rfl

/-- A command write with no transfer running sets the phase, whatever the command. -/
theorem writeCommand_busyHackPhase (c : Byte) (h : fdcSector ≤ s.fdc.bufPos) :
    (writeCommand c s).fdc.busyHackPhase = true := by
  unfold writeCommand
  split
  · exact forceInterrupt_busyHackPhase (cmdBit c 3) (cmdBit c 2) (s.setFdc { s.fdc with busyHackPhase := true })
  · rw [acceptCommand_idle h]
    exact execute_busyHackPhase c _

/-- Settles O28: the instruction is the one the decoder reads, and both ports are the command write. -/
theorem commandPort : Obligations.CommandPort := by
  intro c s
  exact ⟨decodeCommand c, _, decode_commandCall c, exec_decodeCommand c s, rfl, rfl, writeCommand_busyHackPhase c⟩

end Sys2Proof.Machine

/-! ### Type I (43_fdc_commands.md R343 to R349)

With no transfer running each of the five moves the head and the track register and ends with the type I status. -/

namespace Sys2Proof.Machine

variable {s : State}

/-! #### A command taken with no transfer running -/

/-- What the row of a command means with no transfer running: its body with the byte taken. -/
theorem next_accept_of_idle (h : fdcSector ≤ s.fdc.bufPos) (c : Byte) (body : State → State) :
    Host.Outcome.next (φ := Fault) (ρ := Refusal) ((acceptCommand c body s).returns .none)
      = .next ((body (s.setFdc (s.fdc.taken c))).returns .none) := by
  rw [acceptCommand_idle h]
  rfl

/-! #### The status of type I (43_fdc_commands.md R344, R345) -/

/-- The bits of the status, each composed from one condition. -/
theorem typeIStatus_bits : ∀ wd wp err track0 index : Bool,
    let st : Byte := (if wd then 0x00 else 0x80) ||| flagIf wp stWriteProtect ||| stBit5 ||| flagIf err stRecordNotFound
      ||| flagIf track0 stTrack0 ||| flagIf index stDrq
    st.getLsbD 7 = !wd ∧ st.getLsbD 6 = wp ∧ st.getLsbD 5 = true ∧ st.getLsbD 4 = err ∧ st.getLsbD 3 = false
      ∧ st.getLsbD 2 = track0 ∧ st.getLsbD 1 = index ∧ st.getLsbD 0 = false := by
  decide

theorem seekError_iff {v : Bool} {f : Fdc} : seekError v f = true ↔
    v = true ∧ (f.imageFile = none ∨ f.nTracks.toNat ≤ f.currentTrack.toNat ∨ f.trackRegister ≠ f.currentTrack) := by
  simp [seekError, BitVec.le_def, or_assoc]

theorem typeIStatus_spec (p : Params) (f : Fdc) (v index : Bool) :
    TypeIStatus p f v index (typeIStatus p f v index) := by
  obtain ⟨h7, h6, h5, h4, h3, h2, h1, h0⟩ :=
    typeIStatus_bits p.isWD1773 (writeProtected f) (seekError v f) (f.currentTrack == 0) index
  exact ⟨h7, h6, h5, (iff_of_eq (congrArg (· = true) h4)).trans seekError_iff, h3,
    (iff_of_eq (congrArg (· = true) h2)).trans beq_iff_eq, h1, h0⟩

theorem indexDraw_of_attached (h : s.params.indexBit = .attached) :
    s.indexBit = s.fdc.imageFile.isSome ∧ s.indexNext.indexDraws = s.indexDraws := by
  rw [State.indexBit, State.indexNext, h]
  exact ⟨rfl, rfl⟩

/-- A draw of the index bit changes the count of draws at most. -/
theorem State.indexNext_eq (s : State) : s.indexNext = { s with indexDraws := s.indexNext.indexDraws } := by
  unfold State.indexNext
  split <;> rfl

theorem typeIEnd_eq (v : Bool) (s : State) : typeIEnd v s = { s with
    fdc := { s.fdc with statusRegister := typeIStatus s.params s.fdc v s.indexBit, interruptRequestFlag := true }
    indexDraws := s.indexNext.indexDraws } := by
  rw [typeIEnd, State.indexNext_eq]
  rfl

/-- A type I command that leaves the image alone: where its head and registers go is `f`, the rest is its end. -/
theorem typeI_ends {i : Instr} {f : Fdc} (v : Bool) (himage : f.imageFile = s.fdc.imageFile)
    (hexec : exec i s = .next ((typeIEnd v (s.setFdc f)).returns .none)) :
    ∃ (st : Byte) (index : Bool) (d : Nat), TypeIStatus s.params f v index st
      ∧ (s.params.indexBit = .attached → index = s.fdc.imageFile.isSome ∧ d = s.indexDraws)
      ∧ exec i s = .next { s with
          fdc := { f with statusRegister := st, interruptRequestFlag := true }, indexDraws := d, result := .none } := by
  refine ⟨_, _, (s.setFdc f).indexNext.indexDraws, typeIStatus_spec s.params f v (s.setFdc f).indexBit,
    fun hbit => ?_, ?_⟩
  · rw [← himage]
    exact indexDraw_of_attached (s := s.setFdc f) hbit
  · rw [hexec, typeIEnd_eq]
    rfl

/-- Settles O29: each command by the head and the registers it leaves. -/
theorem typeICommands : Obligations.TypeICommands := by
  intro u h v r s hidle moved tr delta stepped i f hcase
  obtain ⟨rfl, rfl⟩ | ⟨rfl, rfl⟩ | ⟨rfl, rfl⟩ | ⟨rfl, rfl⟩ | ⟨rfl, rfl⟩ := hcase
  · exact typeI_ends v rfl (next_accept_of_idle hidle _ (cmdRestore v))
  · exact typeI_ends v rfl (next_accept_of_idle hidle _ (cmdSeek v))
  · exact typeI_ends v rfl (next_accept_of_idle hidle _ (cmdStep u v))
  · exact typeI_ends v rfl (next_accept_of_idle hidle _ (cmdStepIn u v))
  · exact typeI_ends v rfl (next_accept_of_idle hidle _ (cmdStepOut u v))

end Sys2Proof.Machine

/-! ### Types II and III (43_fdc_commands.md R350 to R371)

What the body of each command leaves, said for the state it starts in: a command write and the reissue of a multi-sector
command both start it. -/

namespace Sys2Proof.Machine

variable {s : State}

/-! #### Draws and reads under an update of the FDC -/

theorem State.setFdc_ioNext (s : State) (f : Fdc) : (s.setFdc f).ioNext = s.ioNext.setFdc f := by
  unfold State.ioNext
  rw [State.setFdc_ioScript]
  split <;> rfl

theorem State.setFdc_noFailure (s : State) (f : Fdc) (n : Nat) : (s.setFdc f).noFailure n ↔ s.noFailure n := by
  induction n generalizing s with
  | zero => exact Iff.rfl
  | succ n ih => rw [State.noFailure, State.noFailure, State.setFdc_ioFails, State.setFdc_ioNext, ih]

/-- A draw that fails is not a good one. -/
theorem State.not_noFailure_of_ioFails {n : Nat} (h : s.ioFails = true) : ¬ s.noFailure (n + 1) := fun hgood =>
  Bool.false_ne_true ((State.noFailure_ioFails hgood).symm.trans h)

/-- A good draw is not one that fails. -/
theorem State.not_nextFails_of_ioFails (h : s.ioFails = false) : ¬ s.nextFails := fun hfails =>
  Bool.false_ne_true (h.symm.trans hfails)

/-- A good read gives the bytes of the store from `off` on. -/
theorem memRead_of_good {id off n : Nat} (hlen : off + n ≤ s.lengthOf id) (h : s.noFailure 1) :
    ∃ bs, memRead id off n s = (.ok bs, s.ioNext)
      ∧ ∀ k, (Memory.ofBytes bs).read k = if k < n then s.byteAt id (off + k) else 0 := by
  refine ⟨_, memRead_eq_ok_iff.2 ⟨hlen, State.noFailure_ioFails h, rfl, rfl⟩, fun k => ?_⟩
  rw [Memory.read_ofBytes]
  split
  · next hk => exact Memory.getD_readBytes _ hk
  · next hk => exact List.getD_eq_default _ _ (by rw [Memory.readBytes_length]; omega)

/-- A read past the end of the store or with a failing draw gives no bytes and changes the draws at most. -/
theorem memRead_of_bad {id off n : Nat} (h : s.lengthOf id < off + n ∨ s.nextFails) :
    ∃ r u, memRead id off n s = (r, u) ∧ (∀ bs, r ≠ .ok bs) ∧ KeepsBlocks s u ∧ u.stores = s.stores := by
  refine ⟨_, _, rfl, fun bs hr => ?_, memRead_keepsBlocks id off n s, memRead_stores id off n s⟩
  obtain ⟨hlen, hgood, -⟩ := memRead_eq_ok_iff.1 (Prod.ext hr rfl : memRead id off n s = (.ok bs, _))
  obtain hshort | hfails := h
  · omega
  · exact State.not_nextFails_of_ioFails hgood hfails

/-! #### Side and position (43_fdc_commands.md R350, R351) -/

/-- The FDC with the side selected by a type II command. -/
def Fdc.onSide (f : Fdc) (p : Params) (hs pc : Bool) : Fdc := { f with currentSide := selectedSide p f hs pc }

theorem selectSide_eq (hs pc : Bool) (s : State) :
    selectSide hs pc s = s.setFdc (s.fdc.onSide s.params hs pc) := by
  unfold selectSide Fdc.onSide selectedSide
  split <;> rfl

theorem posOK_iff {f : Fdc} : posOK f = true ↔ PositionOk f f.currentSide f.sectorRegister := by
  simp [posOK, PositionOk, BitVec.le_def, BitVec.lt_def, and_assoc, Option.isSome_iff_ne_none]

theorem writeProtected_iff {f : Fdc} : writeProtected f = true ↔ f.imageFile = none ∨ f.readOnly = true := by
  simp [writeProtected]

/-- A position on the selected side, with the selected side in place. -/
theorem posOK_onSide_iff {f : Fdc} {p : Params} {hs pc : Bool} :
    posOK (f.onSide p hs pc) = true ↔ PositionOk f (selectedSide p f hs pc) f.sectorRegister := posOK_iff

/-! #### READ SECTOR (43_fdc_commands.md R352, R353) -/

theorem cmdReadSector_of_bad_position {hs pc : Bool}
    (h : ¬ PositionOk s.fdc (selectedSide s.params s.fdc hs pc) s.fdc.sectorRegister) :
    cmdReadSector hs pc s = s.setFdc ((s.fdc.onSide s.params hs pc).ended (0x10 ||| bit7Idle s.params)) := by
  unfold cmdReadSector
  rw [selectSide_eq]
  dsimp only
  split
  · rfl
  · exact if_neg fun hpos => h (posOK_onSide_iff.1 hpos)

/-- How the command goes on once the read of the sector has answered. -/
def endRead (u : State) : ReadOutcome → State
  | .ok bs => startTransfer (u.setFdc { u.fdc with buf := Memory.ofBytes bs })
  | .short => endCommand (crcErrorStatus u.params) u
  | .ioerr => endCommand (crcErrorStatus u.params) u

theorem endRead_of_not_ok {u : State} {r : ReadOutcome} (h : ∀ bs, r ≠ .ok bs) :
    endRead u r = u.setFdc (u.fdc.ended (0x08 ||| bit7Idle u.params)) := by
  cases r with
  | ok bs => exact absurd rfl (h bs)
  | short | ioerr => rfl

/-- At a good position the read decides. -/
theorem cmdReadSector_of_position {hs pc : Bool} {id off : Nat} {r : ReadOutcome} {u : State}
    (himage : s.fdc.imageFile = some id)
    (h : PositionOk s.fdc (selectedSide s.params s.fdc hs pc) s.fdc.sectorRegister)
    (hoff : off = secOff s.fdc (selectedSide s.params s.fdc hs pc) s.fdc.sectorRegister)
    (hread : memRead id off fdcSector (s.setFdc { s.fdc.onSide s.params hs pc with xferOffset := off }) = (r, u)) :
    cmdReadSector hs pc s = endRead u r := by
  subst hoff
  unfold cmdReadSector
  rw [selectSide_eq]
  dsimp only
  split
  · next hnone => cases himage.symm.trans hnone
  · next id' himage' =>
    obtain rfl : id = id' := Option.some.inj (himage.symm.trans himage')
    refine (if_pos (posOK_onSide_iff.2 h)).trans ?_
    split
    · next bs v hread' =>
      cases hread.symm.trans hread'
      rfl
    · next o v hne hread' =>
      cases hread.symm.trans hread'
      exact (endRead_of_not_ok hne).symm

theorem cmdReadSector_of_good {hs pc : Bool} {id off : Nat} (himage : s.fdc.imageFile = some id)
    (h : PositionOk s.fdc (selectedSide s.params s.fdc hs pc) s.fdc.sectorRegister)
    (hoff : off = secOff s.fdc (selectedSide s.params s.fdc hs pc) s.fdc.sectorRegister)
    (hlen : off + fdcSector ≤ s.lengthOf id) (hgood : s.noFailure 1) :
    ∃ b : Memory, (∀ k, b.read k = if k < fdcSector then s.byteAt id (off + k) else 0)
      ∧ cmdReadSector hs pc s
        = s.ioNext.setFdc { (s.fdc.onSide s.params hs pc).armed s.params with xferOffset := off, buf := b } := by
  obtain ⟨bs, hread, hbytes⟩ := memRead_of_good
    (s := s.setFdc { s.fdc.onSide s.params hs pc with xferOffset := off }) hlen ((s.setFdc_noFailure _ 1).2 hgood)
  rw [State.setFdc_ioNext] at hread
  refine ⟨Memory.ofBytes bs, hbytes, ?_⟩
  rw [cmdReadSector_of_position himage h hoff hread, endRead, startTransfer, State.setFdc_params, State.setFdc_params,
    State.ioNext_params]
  rfl

/-- The sector past the end of the store, or a read that fails. -/
theorem cmdReadSector_of_bad_read {hs pc : Bool} {id off : Nat} (himage : s.fdc.imageFile = some id)
    (h : PositionOk s.fdc (selectedSide s.params s.fdc hs pc) s.fdc.sectorRegister)
    (hoff : off = secOff s.fdc (selectedSide s.params s.fdc hs pc) s.fdc.sectorRegister)
    (hbad : s.lengthOf id < off + fdcSector ∨ s.nextFails) :
    (cmdReadSector hs pc s).fdc
        = ({ s.fdc.onSide s.params hs pc with xferOffset := off } : Fdc).ended (0x08 ||| bit7Idle s.params)
      ∧ (cmdReadSector hs pc s).stores = s.stores ∧ (cmdReadSector hs pc s).tbm = s.tbm
      ∧ (cmdReadSector hs pc s).tape = s.tape := by
  obtain ⟨r, u, hread, hr, hkeeps, hstores⟩ :=
    memRead_of_bad (s := s.setFdc { s.fdc.onSide s.params hs pc with xferOffset := off }) hbad
  rw [cmdReadSector_of_position himage h hoff hread, endRead_of_not_ok hr]
  refine ⟨?_, hstores, hkeeps.tbm, hkeeps.tape⟩
  rw [State.setFdc_fdc, hkeeps.fdc, hkeeps.params]
  rfl

/-- Settles O30: the read that is good, the bad position, and the read that fails. -/
theorem readSector : Obligations.ReadSector := by
  refine ⟨fun m hs e pc b0 s id hidle himage hpos hlen hgood => ?_, fun m hs e pc b0 s hidle =>
    ⟨fun hpos => ?_, fun id himage hpos hbad => ?_⟩⟩
  · obtain ⟨b, hbytes, hread⟩ := cmdReadSector_of_good (s := s.setFdc (s.fdc.taken (rdsecByte m hs e pc b0))) himage
      hpos rfl hlen ((s.setFdc_noFailure _ 1).2 hgood)
    refine ⟨b, hbytes, (next_accept_of_idle hidle _ _).trans ?_⟩
    rw [hread, State.setFdc_ioNext]
    rfl
  · have hread := cmdReadSector_of_bad_position (s := s.setFdc (s.fdc.taken (rdsecByte m hs e pc b0))) hpos
    refine (next_accept_of_idle hidle _ _).trans ?_
    rw [hread]
    rfl
  · obtain ⟨hfdc, hstores, htbm, htape⟩ := cmdReadSector_of_bad_read
      (s := s.setFdc (s.fdc.taken (rdsecByte m hs e pc b0))) himage hpos rfl hbad
    exact ⟨_, next_accept_of_idle hidle _ _, hfdc, rfl, hstores, htbm, htape⟩

/-! #### WRITE SECTOR (43_fdc_commands.md R356 to R358) -/

theorem cmdWriteSector_of_protected {hs pc : Bool} (h : s.fdc.imageFile = none ∨ s.fdc.readOnly = true) :
    cmdWriteSector hs pc s = s.setFdc ((s.fdc.onSide s.params hs pc).ended (0x40 ||| bit7Idle s.params)) := by
  unfold cmdWriteSector
  rw [selectSide_eq]
  exact if_pos (writeProtected_iff.2 h)

theorem cmdWriteSector_of_bad_position {hs pc : Bool} (himage : s.fdc.imageFile ≠ none) (hro : s.fdc.readOnly = false)
    (h : ¬ PositionOk s.fdc (selectedSide s.params s.fdc hs pc) s.fdc.sectorRegister) :
    cmdWriteSector hs pc s = s.setFdc ((s.fdc.onSide s.params hs pc).ended (0x10 ||| bit7Idle s.params)) := by
  have hwritable : ¬ writeProtected (s.fdc.onSide s.params hs pc) = true := by
    rw [writeProtected_iff]
    exact not_or.2 ⟨himage, Bool.eq_false_iff.1 hro⟩
  unfold cmdWriteSector
  rw [selectSide_eq]
  exact (if_neg hwritable).trans (if_neg fun hpos => h (posOK_onSide_iff.1 hpos))

theorem cmdWriteSector_of_position {hs pc : Bool} (hro : s.fdc.readOnly = false)
    (h : PositionOk s.fdc (selectedSide s.params s.fdc hs pc) s.fdc.sectorRegister) :
    cmdWriteSector hs pc s = s.setFdc { (s.fdc.onSide s.params hs pc).armed s.params with
      xferOffset := secOff s.fdc (selectedSide s.params s.fdc hs pc) s.fdc.sectorRegister } := by
  have hwritable : ¬ writeProtected (s.fdc.onSide s.params hs pc) = true := by
    obtain ⟨himage, -⟩ := h
    rw [writeProtected_iff]
    exact not_or.2 ⟨himage, Bool.eq_false_iff.1 hro⟩
  unfold cmdWriteSector
  rw [selectSide_eq]
  exact (if_neg hwritable).trans (if_pos (posOK_onSide_iff.2 h))

/-- Settles O31: write protection first, then the position. -/
theorem writeSector : Obligations.WriteSector := by
  intro m hs e pc a0 s hidle side f
  have hexec : exec (.wrsec m hs e pc a0) s = _ := next_accept_of_idle hidle _ (cmdWriteSector hs pc)
  rw [hexec]
  refine ⟨fun hprotected => ?_, fun himage hro hpos => ?_, fun hro hpos => ?_⟩
  · rw [cmdWriteSector_of_protected (s := s.setFdc (s.fdc.taken (wrsecByte m hs e pc a0))) hprotected]
    rfl
  · rw [cmdWriteSector_of_bad_position (s := s.setFdc (s.fdc.taken (wrsecByte m hs e pc a0))) himage hro hpos]
    rfl
  · rw [cmdWriteSector_of_position (s := s.setFdc (s.fdc.taken (wrsecByte m hs e pc a0))) hro hpos]
    rfl

/-! #### Type III (43_fdc_commands.md R364, R370, R371; 30_encoding.md R146, R147) -/

theorem addressOK_iff {f : Fdc} : addressOK f = true ↔
    f.imageFile ≠ none ∧ f.currentTrack.toNat < f.nTracks.toNat ∧ f.currentSide.toNat < f.nSides.toNat := by
  simp [addressOK, BitVec.lt_def, and_assoc, Option.isSome_iff_ne_none]

/-- The high and the low byte of a word, by a shift and by a field. -/
theorem wordBytes_eq (w : BitVec 16) :
    [w.extractLsb' 8 8, w.extractLsb' 0 8] = [(w >>> 8).setWidth 8, w.setWidth 8] := rfl

/-- The status of WRITE TRACK by the image. -/
theorem writeTrackStatus_eq (p : Params) (f : Fdc) : writeTrackStatus p f
    = 0x20 ||| (if f.imageFile = none ∨ f.readOnly = true then 0x40 else 0) ||| bit7Idle p := by
  rw [writeTrackStatus, flagIf]
  simp only [writeProtected_iff]
  rfl

theorem cmdReadAddress_of_no_address (h : s.fdc.imageFile = none ∨ s.fdc.nTracks.toNat ≤ s.fdc.currentTrack.toNat
      ∨ s.fdc.nSides.toNat ≤ s.fdc.currentSide.toNat) :
    cmdReadAddress s = s.setFdc (s.fdc.ended (0x10 ||| bit7Idle s.params)) := by
  refine if_neg fun hok => ?_
  obtain ⟨himage, htrack, hside⟩ := addressOK_iff.1 hok
  obtain hnone | hle | hle := h
  · exact himage hnone
  · exact Nat.not_le.2 htrack hle
  · exact Nat.not_le.2 hside hle

theorem cmdReadAddress_of_address (himage : s.fdc.imageFile ≠ none)
    (htrack : s.fdc.currentTrack.toNat < s.fdc.nTracks.toNat) (hside : s.fdc.currentSide.toNat < s.fdc.nSides.toNat) :
    cmdReadAddress s = s.setFdc { s.fdc with
      buf := s.fdc.buf.writeBytes 506 (idField s.fdc), bufPos := 506, dataRequestFlag := true,
      statusRegister := 0x23 ||| bit7Idle s.params } := if_pos (addressOK_iff.2 ⟨himage, htrack, hside⟩)

/-- Settles O32: READ ADDRESS by its check, the other two by their status. -/
theorem typeIIICommands : Obligations.TypeIIICommands := by
  refine ⟨fun hs e b1 b0 s hidle => ?_, fun hs e x b0 s hidle => ⟨next_accept_of_idle hidle _ cmdReadTrack, ?_⟩⟩
  · have hexec : exec (.rdaddr hs e b1 b0) s = _ := next_accept_of_idle hidle _ cmdReadAddress
    rw [hexec]
    refine ⟨fun hbad => ?_, fun himage htrack hside => ⟨s.fdc.buf.writeBytes 506 (idField s.fdc), fun k => ?_, ?_⟩⟩
    · rw [cmdReadAddress_of_no_address (s := s.setFdc (s.fdc.taken (rdaddrByte hs e b1 b0))) hbad]
      rfl
    · rw [Memory.read_writeBytes, idField, wordBytes_eq]
      rfl
    · rw [cmdReadAddress_of_address (s := s.setFdc (s.fdc.taken (rdaddrByte hs e b1 b0))) himage htrack hside]
      rfl
  · have hexec : exec (.wrtrk hs e x b0) s = _ := next_accept_of_idle hidle _ cmdWriteTrack
    rw [hexec, cmdWriteTrack, writeTrackStatus_eq]
    rfl

end Sys2Proof.Machine

/-! ### FORCE INTERRUPT (43_fdc_commands.md R380 to R382)

The end of the transfer that runs, by whether a write transfer has a byte to save and by what becomes of it. -/

namespace Sys2Proof.Machine

variable {s : State}

/-- The FDC at the end of a FORCE INTERRUPT of byte `c`: INTRQ and its hold by the condition bits, the phase set. -/
def Fdc.forced (f : Fdc) (c : Byte) (hold : Bool) : Fdc :=
  { f with interruptRequestFlag := hold, forceIntPending := hold, busyHackPhase := true, commandRegister := c }

theorem exec_forceint (i3 i2 i1 i0 : Bool) (s : State) :
    exec (.forceint i3 i2 i1 i0) s
      = .next ((acceptForce (forceintByte i3 i2 i1 i0) i3 i2 s).returns .none) := rfl

/-- The state in which a FORCE INTERRUPT ends the transfer: the phase set, INTRQ and its hold cleared. -/
def State.forcing (s : State) : State :=
  s.setFdc { s.fdc with busyHackPhase := true, interruptRequestFlag := false, forceIntPending := false }

/-- The state once the bytes of a running write transfer are saved. -/
def State.saved (s : State) : State := if partialWrite s.fdc then flushPartial s else s

theorem acceptForce_eq (c : Byte) (i3 i2 : Bool) (s : State) :
    acceptForce c i3 i2 s = s.forcing.saved.setFdc { s.forcing.saved.fdc.stopped with
      interruptRequestFlag := i3 || i2, forceIntPending := i3 || i2, commandRegister := c } := rfl

/-- With no image the write of a partial sector counts as one that fails (notes/assumptions/19.md). -/
theorem flushPartial_of_no_image (h : s.fdc.imageFile = none) :
    flushPartial s = s.setFdc { s.fdc.padded with statusRegister := s.fdc.statusRegister ||| stBit5 } := by
  have hwrite : imageWrite s.fdc.padded (s.setFdc s.fdc.padded) = (true, s.setFdc s.fdc.padded) := by
    obtain ⟨-, hnone⟩ | ⟨id, hsome, -⟩ := imageWrite_cases s.fdc.padded (s.setFdc s.fdc.padded)
    · exact hnone
    · cases h.symm.trans hsome
  unfold flushPartial
  rw [hwrite]
  rfl

/-- Status bit 5 outlives the end of the transfer. -/
theorem Fdc.stopped_of_failed_write (f : Fdc) :
    ({ f.padded with statusRegister := f.statusRegister ||| stBit5 } : Fdc).stopped = f.writeEnded true := by
  rw [Fdc.stopped, Fdc.writeEnded, if_pos rfl, ← clearBusyDrq_or_stBit5]
  rfl

theorem acceptForce_of_no_write (c : Byte) (i3 i2 : Bool) (hp : partialWrite s.fdc = false) :
    acceptForce c i3 i2 s = s.setFdc (s.fdc.stopped.forced c (i3 || i2)) := by
  have hsaved : s.forcing.saved = s.forcing := if_neg (Bool.eq_false_iff.1 hp)
  rw [acceptForce_eq, hsaved]
  rfl

theorem acceptForce_of_no_image (c : Byte) (i3 i2 : Bool) (hp : partialWrite s.fdc = true)
    (himage : s.fdc.imageFile = none) :
    acceptForce c i3 i2 s = s.setFdc ((s.fdc.writeEnded true).forced c (i3 || i2)) := by
  have hsaved : s.forcing.saved = flushPartial s.forcing := if_pos hp
  rw [acceptForce_eq, hsaved, flushPartial_of_no_image (s := s.forcing) himage, State.setFdc_fdc,
    Fdc.stopped_of_failed_write]
  rfl

/-- A write transfer with bytes to save, by the draw of its write. -/
theorem acceptForce_of_image {id : Nat} (c : Byte) (i3 i2 : Bool) (hp : partialWrite s.fdc = true)
    (himage : s.fdc.imageFile = some id) :
    s.ioFails = true ∧ acceptForce c i3 i2 s = s.ioNext.setFdc ((s.fdc.writeEnded true).forced c (i3 || i2))
      ∨ s.ioFails = false
        ∧ acceptForce c i3 i2 s = (s.written id s.fdc.xferOffset s.fdc.padded.buf fdcSector).setFdc
            ((s.fdc.writeEnded false).forced c (i3 || i2)) := by
  have hsaved : s.forcing.saved = flushPartial s.forcing := if_pos hp
  rw [acceptForce_eq, hsaved]
  obtain ⟨hfails, hflush⟩ | ⟨hgood, hflush⟩ := flushPartial_cases (s := s.forcing) himage
  · refine .inl ⟨hfails, ?_⟩
    rw [hflush, State.setFdc_fdc, Fdc.stopped_of_failed_write, State.forcing, State.setFdc_ioNext]
    rfl
  · refine .inr ⟨hgood, ?_⟩
    rw [hflush, State.forcing, State.setFdc_ioNext]
    rfl

/-- Settles O33: no byte to save, no image to save it to, the write that fails and the one that does not. -/
theorem forceInterrupt_spec : Obligations.ForceInterrupt := by
  intro i3 i2 i1 i0 s f quiet
  rw [exec_forceint]
  cases hp : partialWrite s.fdc with
  | false =>
    rw [acceptForce_of_no_write _ i3 i2 hp]
    refine ⟨_, s.fdc.buf, quiet, rfl, rfl, rfl, rfl, rfl, .inl rfl, fun _ => rfl, fun id hwrite => ?_⟩
    cases hwrite
  | true =>
    cases himage : s.fdc.imageFile with
    | none =>
      rw [acceptForce_of_no_image _ i3 i2 hp himage]
      refine ⟨_, s.fdc.padded.buf, quiet ||| 0x20, rfl, rfl, rfl, rfl, rfl, .inr rfl, fun hno => ?_,
        fun id _ hsome => ?_⟩
      · cases hno
      · cases hsome
    | some id =>
      obtain ⟨hdraw, hforce⟩ | ⟨hdraw, hforce⟩ := acceptForce_of_image (forceintByte i3 i2 i1 i0) i3 i2 hp himage
      · rw [hforce]
        refine ⟨_, s.fdc.padded.buf, quiet ||| 0x20, rfl, rfl, s.ioNext_tbm, s.ioNext_tape, rfl, .inr rfl,
          fun hno => ?_, fun id' _ hid => ⟨fun k hk => Fdc.padded_read hk, ?_, fun _ => s.ioNext_stores,
            fun hgood => ?_⟩⟩
        · cases hno
        · rw [hdraw]
          rfl
        · exact absurd hgood (State.not_noFailure_of_ioFails hdraw)
      · have hkeeps := s.written_keepsBlocks id s.fdc.xferOffset s.fdc.padded.buf fdcSector
        rw [hforce]
        refine ⟨_, s.fdc.padded.buf, quiet, rfl, rfl, hkeeps.tbm, hkeeps.tape, rfl, .inl rfl, fun hno => ?_,
          fun id' _ hid => ?_⟩
        · cases hno
        obtain rfl : id = id' := Option.some.inj hid
        refine ⟨fun k hk => Fdc.padded_read hk, ?_, fun hfails => ?_,
          fun _ => ⟨s.written_padded_byteAt id, fun x hx => State.written_store_of_ne hx _ _ _⟩⟩
        · rw [hdraw]
          rfl
        · exact absurd hfails (State.not_nextFails_of_ioFails hdraw)

end Sys2Proof.Machine

/-! ### The data write and the sectors of a multi-sector command (42_fdc_ports.md R312, R313; 43_fdc_commands.md R354,
R359, R360, R375) -/

namespace Sys2Proof.Machine

variable {s : State}

theorem exec_dataWrite (v : Byte) (s : State) :
    ∀ i ∈ [Instr.wdr v, .writeDataRegister v], exec i s = .next (writeData v s) := forall_mem_encodings rfl rfl

/-! #### One byte of a write transfer -/

/-- The FDC with byte `v` taken in by a write transfer. -/
def Fdc.received (f : Fdc) (v : Byte) : Fdc :=
  { f with dataRegister := v, buf := f.buf.write f.bufPos v, bufPos := f.bufPos + 1 }

theorem writeData_result (v : Byte) (s : State) : (writeData v s).result = .none := by
  unfold writeData
  dsimp only
  split <;> rfl

theorem writeData_of_no_write {v : Byte}
    (h : ¬ (s.fdc.bufPos < fdcSector ∧ transferKind s.fdc.commandRegister = some .sectorWrite)) :
    writeData v s = (s.setFdc { s.fdc with dataRegister := v }).returns .none := if_neg h

/-- A byte of a write transfer: the last one ends the sector. -/
theorem writeData_of_write {v : Byte} (hrun : s.fdc.bufPos < fdcSector)
    (hk : transferKind s.fdc.commandRegister = some .sectorWrite) :
    writeData v s = (if s.fdc.bufPos + 1 = fdcSector then endWriteSector (s.setFdc (s.fdc.received v))
      else s.setFdc (s.fdc.received v)).returns .none := if_pos ⟨hrun, hk⟩

theorem writeData_of_more {v : Byte} (hpos : s.fdc.bufPos + 1 < fdcSector)
    (hk : transferKind s.fdc.commandRegister = some .sectorWrite) :
    writeData v s = (s.setFdc (s.fdc.received v)).returns .none := by
  rw [writeData_of_write (Nat.lt_of_succ_lt hpos) hk, if_neg (Nat.ne_of_lt hpos)]

/-! #### The end of a sector (43_fdc_commands.md R359, R360) -/

theorem imageWrite_of_image {f : Fdc} {id : Nat} (h : f.imageFile = some id) (s : State) :
    imageWrite f s = memWrite id f.xferOffset (f.buf.readBytes 0 fdcSector) s := by
  unfold imageWrite
  rw [h]

theorem endWriteSector_of_write {fails : Bool} {u : State}
    (h : imageWrite (endBlock s).fdc (endBlock s) = (fails, u)) :
    endWriteSector s = if fails then endCommand (bit5Status u.params) u else nextSector u := by
  unfold endWriteSector
  rw [h]

theorem endWriteSector_of_image {id : Nat} (hend : s.fdc.bufPos = fdcSector) (himage : s.fdc.imageFile = some id) :
    s.ioFails = true ∧ endWriteSector s = s.ioNext.setFdc (s.fdc.stopped.ended (0x20 ||| bit7Idle s.params))
      ∨ s.ioFails = false
        ∧ endWriteSector s
          = nextSector ((s.written id s.fdc.xferOffset s.fdc.buf fdcSector).setFdc s.fdc.stopped) := by
  have himageWrite : imageWrite (endBlock s).fdc (endBlock s)
      = memWrite id s.fdc.xferOffset (s.fdc.buf.readBytes 0 fdcSector) (s.setFdc s.fdc.stopped) := by
    rw [endBlock_of_end hend]
    exact imageWrite_of_image (f := s.fdc.stopped) himage _
  obtain ⟨hfails, hwrite⟩ | ⟨hgood, hwrite⟩ :=
    memWrite_cases id s.fdc.xferOffset (s.fdc.buf.readBytes 0 fdcSector) (s.setFdc s.fdc.stopped)
  · refine .inl ⟨hfails, ?_⟩
    rw [endWriteSector_of_write (himageWrite.trans hwrite), if_pos rfl, State.setFdc_ioNext, State.setFdc_params,
      State.ioNext_params]
    rfl
  · refine .inr ⟨hgood, ?_⟩
    rw [endWriteSector_of_write (himageWrite.trans hwrite), if_neg Bool.false_ne_true, State.setFdc_ioNext]
    rfl

/-- The state once the sector of a write transfer to store `id` is stored, its last byte `v`. -/
def State.stored (s : State) (id : Nat) (v : Byte) : State :=
  (s.written id s.fdc.xferOffset (s.fdc.buf.write s.fdc.bufPos v) fdcSector).setFdc
    { s.fdc.stopped with dataRegister := v, buf := s.fdc.buf.write s.fdc.bufPos v }

/-- The last byte of a sector, by the draw of its write. -/
theorem writeData_of_end {id : Nat} {v : Byte} (hpos : s.fdc.bufPos + 1 = fdcSector)
    (hk : transferKind s.fdc.commandRegister = some .sectorWrite) (himage : s.fdc.imageFile = some id) :
    s.ioFails = true ∧ writeData v s = (s.ioNext.setFdc
        (({ s.fdc.stopped with dataRegister := v, buf := s.fdc.buf.write s.fdc.bufPos v } : Fdc).ended
          (0x20 ||| bit7Idle s.params))).returns .none
      ∨ s.ioFails = false ∧ writeData v s = (nextSector (s.stored id v)).returns .none := by
  have hrun : s.fdc.bufPos < fdcSector := by omega
  rw [writeData_of_write hrun hk, if_pos hpos]
  obtain ⟨hfails, hwrite⟩ | ⟨hgood, hwrite⟩ := endWriteSector_of_image (s := s.setFdc (s.fdc.received v)) hpos himage
  · refine .inl ⟨hfails, ?_⟩
    rw [hwrite, State.setFdc_ioNext]
    rfl
  · refine .inr ⟨hgood, ?_⟩
    rw [hwrite, State.written, State.setFdc_ioNext]
    rfl

/-- What comes after the store of a sector changes no file: no transfer is running then. -/
theorem nextSector_stored_stores (s : State) (id : Nat) (v : Byte) :
    (nextSector (s.stored id v)).stores
      = (s.written id s.fdc.xferOffset (s.fdc.buf.write s.fdc.bufPos v) fdcSector).stores :=
  nextSector_stores (s := s.stored id v) (Fdc.busy_false_iff.2 (Nat.le_refl fdcSector))

theorem State.store_of_stores_eq {t : State} (h : t.stores = s.stores) (x : Nat) : t.store x = s.store x := by
  rw [State.store, h, State.store]

/-- The 512 bytes of a sector in the image, whatever the command goes on with. -/
theorem writeData_byteAt {id : Nat} {v : Byte} (hw : writeData v s = (nextSector (s.stored id v)).returns .none)
    (x a : Nat) : (writeData v s).byteAt x a
      = if x = id ∧ s.fdc.xferOffset ≤ a ∧ a < s.fdc.xferOffset + fdcSector
        then (s.fdc.buf.write s.fdc.bufPos v).read (a - s.fdc.xferOffset) else s.byteAt x a := by
  rw [← s.written_byteAt id s.fdc.xferOffset (s.fdc.buf.write s.fdc.bufPos v) fdcSector x a, hw, State.byteAt,
    State.returns_store, State.store_of_stores_eq (nextSector_stored_stores s id v) x]
  rfl

theorem writeData_store_of_ne {id x : Nat} {v : Byte}
    (hw : writeData v s = (nextSector (s.stored id v)).returns .none) (hx : x ≠ id) :
    (writeData v s).store x = s.store x := by
  rw [hw, State.returns_store, State.store_of_stores_eq (nextSector_stored_stores s id v) x,
    State.written_store_of_ne hx]

/-- Settles O36: no write transfer, a byte that is not the last, and the last one by the draw of its write. -/
theorem writeData_spec : Obligations.WriteData := by
  intro v s i hi k off
  rw [exec_dataWrite v s i hi]
  obtain ⟨hkeeps, -⟩ := writeData_changes v s
  refine ⟨fun hno => ?_, fun hrun hk => ⟨_, s.fdc.buf.write s.fdc.bufPos v, rfl, writeData_result v s,
    hkeeps.tbm (by decide), hkeeps.tape (by decide), fun a => Memory.read_write _ _ _ _, fun hmore => ?_,
    fun id hend himage => ?_⟩⟩
  · rw [writeData_of_no_write hno]
    rfl
  · rw [writeData_of_more (Nat.succ_lt_succ hmore) hk]
    exact ⟨rfl, rfl⟩
  · have hpos : s.fdc.bufPos + 1 = fdcSector := congrArg Nat.succ hend
    obtain ⟨hdraw, hw⟩ | ⟨hdraw, hw⟩ := writeData_of_end (v := v) hpos hk himage
    · refine ⟨fun _ => ?_, fun hgood => ?_⟩
      · rw [hw]
        exact ⟨s.ioNext_stores, rfl⟩
      · exact absurd hgood (State.not_noFailure_of_ioFails hdraw)
    · refine ⟨fun hfails => ?_, fun _ => ⟨fun hsingle => ?_, writeData_byteAt hw,
        fun x hx => writeData_store_of_ne hw hx⟩⟩
      · exact absurd hfails (State.not_nextFails_of_ioFails hdraw)
      · rw [hw, nextSector_of_single (s := s.stored id v) hsingle]
        rfl

/-! #### The next sector of a multi-sector command (43_fdc_commands.md R354, R359, R375) -/

/-- The command goes on with the sector register advanced. -/
theorem nextSector_of_multi (h : s.fdc.commandRegister.getLsbD 4 = true) :
    nextSector s
      = execute s.fdc.commandRegister (s.setFdc { s.fdc with sectorRegister := s.fdc.sectorRegister + 1 }) :=
  if_pos h

theorem readSector_of_transferKind {c : Byte} : transferKind c = some .sectorRead → c &&& 0xE0#8 = 0x80#8 := by
  decide +revert

theorem writeSector_of_transferKind {c : Byte} : transferKind c = some .sectorWrite → c &&& 0xE0#8 = 0xA0#8 := by
  decide +revert

/-- The FDC with no transfer running, byte `v` in the data register, and the sector register advanced. -/
def Fdc.advanced (f : Fdc) (v : Byte) : Fdc :=
  { f.stopped with dataRegister := v, sectorRegister := f.sectorRegister + 1 }

/-- The last byte of a sector of a multi-sector READ SECTOR. -/
theorem readData_of_multi (hpos : s.fdc.bufPos + 1 = fdcSector) (h : s.fdc.commandRegister.getLsbD 4 = true)
    (hk : transferKind s.fdc.commandRegister = some .sectorRead) :
    readData s = (cmdReadSector (s.fdc.commandRegister.getLsbD 3) (s.fdc.commandRegister.getLsbD 1)
      (s.setFdc (s.fdc.advanced (s.fdc.buf.read s.fdc.bufPos)))).returns (.byte (s.fdc.buf.read s.fdc.bufPos)) := by
  rw [readData_of_sector_end hpos hk, endReadSector, endBlock_of_end (s := transferOut s) hpos,
    nextSector_of_multi (s := (transferOut s).setFdc (transferOut s).fdc.stopped) h]
  exact congrArg (fun body : State → State => (body (s.setFdc (s.fdc.advanced (s.fdc.buf.read s.fdc.bufPos)))).returns
    (.byte (s.fdc.buf.read s.fdc.bufPos))) (execute_of_readSector (readSector_of_transferKind hk))

/-- The state in which a multi-sector WRITE SECTOR is reissued, its last sector stored. -/
def State.reissued (s : State) (id : Nat) (v : Byte) : State :=
  (s.stored id v).setFdc { s.fdc.advanced v with buf := s.fdc.buf.write s.fdc.bufPos v }

theorem State.reissued_params (s : State) (id : Nat) (v : Byte) : (s.reissued id v).params = s.params :=
  (s.written_keepsBlocks id s.fdc.xferOffset (s.fdc.buf.write s.fdc.bufPos v) fdcSector).params

/-- The last byte of a sector of a multi-sector WRITE SECTOR, once it is stored. -/
theorem nextSector_stored_of_multi {id : Nat} {v : Byte} (h : s.fdc.commandRegister.getLsbD 4 = true)
    (hk : transferKind s.fdc.commandRegister = some .sectorWrite) :
    nextSector (s.stored id v) = cmdWriteSector (s.fdc.commandRegister.getLsbD 3) (s.fdc.commandRegister.getLsbD 1)
      (s.reissued id v) := by
  rw [nextSector_of_multi (s := s.stored id v) h]
  exact congrFun (execute_of_writeSector (writeSector_of_transferKind hk)) _

/-- Settles O37: the read by its next position and the draw of its next sector, the write by what is stored and by
what the reissue meets. -/
theorem multiSectorTransfers : Obligations.MultiSectorTransfers := by
  intro s id hpos hmulti himage c side next off f
  have hend : s.fdc.bufPos + 1 = fdcSector := congrArg Nat.succ hpos
  refine ⟨fun hk i hi => ?_, fun hk hgood v i hi => ?_⟩
  · intro v
    have hread := readData_of_multi hend hmulti hk
    rw [hpos] at hread
    rw [exec_dataRead s i hi, hread]
    refine ⟨fun hbad => ?_, fun hposition hlen hgood => ?_, fun hposition hbad => ?_⟩
    · rw [cmdReadSector_of_bad_position (s := s.setFdc (s.fdc.advanced v)) hbad]
      rfl
    · obtain ⟨b, hbytes, hnext⟩ := cmdReadSector_of_good (s := s.setFdc (s.fdc.advanced v)) himage hposition rfl hlen
        ((s.setFdc_noFailure _ 1).2 hgood)
      refine ⟨b, hbytes, ?_⟩
      rw [hnext, State.setFdc_ioNext]
      rfl
    · obtain ⟨hfdc, hstores, htbm, htape⟩ :=
        cmdReadSector_of_bad_read (s := s.setFdc (s.fdc.advanced v)) himage hposition rfl hbad
      exact ⟨_, rfl, rfl, hstores, htbm, htape, hfdc⟩
  · obtain ⟨hdraw, -⟩ | ⟨-, hw⟩ := writeData_of_end (v := v) hend hk himage
    · exact absurd hgood (State.not_noFailure_of_ioFails hdraw)
    obtain ⟨hkeeps, -⟩ := writeData_changes v s
    have hparams := s.reissued_params id v
    have hattached : s.fdc.imageFile ≠ none := himage ▸ Option.some_ne_none id
    have hnext := nextSector_stored_of_multi (id := id) (v := v) hmulti hk
    rw [exec_dataWrite v s i hi]
    refine ⟨_, s.fdc.buf.write s.fdc.bufPos v, rfl, writeData_result v s, hkeeps.tbm (by decide),
      hkeeps.tape (by decide), fun a => ?_, writeData_byteAt hw, fun x hx => writeData_store_of_ne hw hx,
      fun hro => ?_, fun hro hbad => ?_, fun hro hposition => ?_⟩
    · rw [Memory.read_write, hpos]
    · rw [hw, hnext, cmdWriteSector_of_protected (s := s.reissued id v) (.inr hro), hparams]
      rfl
    · rw [hw, hnext, cmdWriteSector_of_bad_position (s := s.reissued id v) hattached hro (hparams ▸ hbad), hparams]
      rfl
    · rw [hw, hnext, cmdWriteSector_of_position (s := s.reissued id v) hro (hparams ▸ hposition), hparams]
      rfl

end Sys2Proof.Machine

/-! ### Tape: transport and positioning (44_tape.md R402 to R409, R420, R421)

Each operation is what its body does to the open tape; the two that clamp a position are read as sums of integers. -/

namespace Sys2Proof.Machine

variable {s : State} {t : Tape}

/-! #### The operations with a body of their own, with and without a tape -/

theorem exec_getInputSignal_of_none (hs : s.tape = none) : exec .getInputSignal s = .next (s.returns (.byte 0)) := by
  rw [exec, execGetInputSignal, hs]

theorem exec_getInputSignal_of_some (hs : s.tape = some t) :
    exec .getInputSignal s = .next (s.returns (.byte t.inputState)) := by
  rw [exec, execGetInputSignal, hs]

theorem exec_getTapeInfo_of_none (hs : s.tape = none) :
    exec .getTapeInfo s = .next (s.returns (.tapeInfo 0 0 0 false false false [])) := by
  rw [exec, execGetTapeInfo, hs]

theorem exec_getTapeInfo_of_some (hs : s.tape = some t) :
    exec .getTapeInfo s = .next (s.returns (.tapeInfo t.tapePosition t.tapeLength t.sampleRate t.isPlaybackOn
      t.isRecordOn t.isMotorOn t.cuePoints)) := by
  rw [exec, execGetTapeInfo, hs]

theorem exec_addCuePoint_of_none (hs : s.tape = none) : exec .addCuePoint s = .next (s.returns (.bool false)) := by
  rw [exec, execAddCuePoint, hs]

theorem exec_deleteNearestCuePoint_of_none (hs : s.tape = none) :
    exec .deleteNearestCuePoint s = .next (s.returns (.bool false)) := by
  rw [exec, execDeleteNearestCuePoint, hs]

theorem closeTape_of_none (hs : s.tape = none) : closeTape s = s := by
  rw [closeTape, hs]

theorem exec_closeTape (s : State) : exec .closeTape s = .next ((closeTape s).returns .none) := rfl

/-- `record` on a tape that may be written: not read-only and not LegacyTap (44_tape.md R404). -/
theorem exec_record_of_writable (hs : s.tape = some t) (hmode : t.mode ≠ .readOnly) (hl : t.isLegacy = false) :
    exec .record s = .next (s.withTape { t with isRecordOn := true, isPlaybackOn := true } .none) := by
  rw [exec, execRecord, onTape_some hs]
  split
  · next h => exact absurd h hmode
  · next hm =>
    rw [isLegacy_of_legacyTap ‹t.medium = .legacyTap _›] at hl
    cases hl
  · rfl

theorem exec_record_of_refused (hs : s.tape = some t) (h : t.mode = .readOnly ∨ t.isLegacy = true) :
    exec .record s = .next (s.returns .none) := by
  rw [exec, execRecord, onTape_some hs]
  split
  · rfl
  · rfl
  · next hmode hmedium =>
    obtain h | h := h
    · exact absurd h hmode
    · unfold Tape.isLegacy at h
      split at h
      · next hm => exact absurd hm (hmedium _)
      · cases h

theorem exec_play_of_some (hs : s.tape = some t) :
    exec .play s = .next (s.withTape { t with isRecordOn := false, isPlaybackOn := true } .none) := by
  rw [exec, execPlay, onTape_some hs]

theorem exec_stop_of_some (hs : s.tape = some t) :
    exec .stop s = .next (flushInto { t with isPlaybackOn := false, isRecordOn := false } s) := by
  rw [exec, execStop, onTape_some hs]

theorem exec_setIsMotorOn_of_some (hs : s.tape = some t) (b : Bool) :
    exec (.setIsMotorOn b) s = .next (if t.isMotorOn && !b then flushInto { t with isMotorOn := false } s
      else s.withTape { t with isMotorOn := b } .none) := by
  rw [exec, execSetIsMotorOn, onTape_some hs]

theorem exec_runOneSample_of_some (hs : s.tape = some t) : exec .runOneSample s = .next (tick t s) := by
  rw [exec, execRunOneSample, onTape_some hs]

theorem exec_setOutputSignal_of_some (hs : s.tape = some t) (v : Byte) :
    exec (.setOutputSignal v) s
      = .next (s.withTape { t with outputState := lowBits t.requestedBitsPerSample v } .none) := by
  rw [exec, execSetOutputSignal, onTape_some hs]

theorem exec_tapeSeek_of_some (hs : s.tape = some t) (q : Rat) :
    exec (.tapeSeek q) s = .next (flushInto (t.moveTo (seekTarget q t)) s) := by
  rw [exec, execTapeSeek, onTape_some hs]

theorem exec_seekToCuePoint_of_some (hs : s.tape = some t) (forward : Bool) (q : Rat) :
    exec (.seekToCuePoint forward q) s = .next (flushInto (t.moveTo (cueTarget forward q t)) s) := by
  rw [exec, execSeekToCuePoint, onTape_some hs]

/-- The operations with no result, none of which does anything with no tape open (44_tape.md R402). -/
theorem exec_of_no_tape (hs : s.tape = none) (b : Bool) (v : Byte) (q : Rat) :
    ∀ i ∈ [Instr.play, .record, .stop, .setIsMotorOn b, .runOneSample, .setOutputSignal v, .tapeSeek q,
      .seekToCuePoint b q, .deleteAllCuePoints, .closeTape], exec i s = .next (s.returns .none) := by
  simp only [List.forall_mem_cons, List.not_mem_nil, false_imp_iff, implies_true, and_true, exec, execPlay, execRecord,
    execStop, execSetIsMotorOn, execRunOneSample, execSetOutputSignal, execTapeSeek, execSeekToCuePoint,
    execDeleteAllCuePoints, execCloseTape, closeTape_of_none hs, onTape_none hs]

theorem exec_cue_of_no_tape (hs : s.tape = none) :
    ∀ i ∈ [Instr.addCuePoint, .deleteNearestCuePoint], exec i s = .next (s.returns (.bool false)) := by
  simp only [List.forall_mem_cons, List.not_mem_nil, false_imp_iff, implies_true, and_true,
    exec_addCuePoint_of_none hs, exec_deleteNearestCuePoint_of_none hs]

/-- Settles O43: with no tape every operation answers its refusal, and on an open tape each is its own update. -/
theorem tapeTransport : Obligations.TapeTransport :=
  ⟨fun _ b v q hs => ⟨exec_getInputSignal_of_none hs, exec_cue_of_no_tape hs, exec_getTapeInfo_of_none hs,
      exec_of_no_tape hs b v q⟩,
    fun _ _ v hs => ⟨exec_play_of_some hs, exec_record_of_writable hs, exec_record_of_refused hs,
      exec_setOutputSignal_of_some hs v,
      exec_getInputSignal_of_some hs, exec_getTapeInfo_of_some hs⟩⟩

/-! #### The motor line (44_tape.md R406) -/

theorem exec_setIsMotorOn_of_stops (hs : s.tape = some t) {b : Bool} (hon : t.isMotorOn = true) (hb : b = false) :
    exec (.setIsMotorOn b) s = .next (flushInto { t with isMotorOn := false } s) := by
  rw [exec_setIsMotorOn_of_some hs, if_pos (by simp [hon, hb])]

theorem exec_setIsMotorOn_of_not_stops (hs : s.tape = some t) {b : Bool} (h : t.isMotorOn = false ∨ b = true) :
    exec (.setIsMotorOn b) s = .next (s.withTape { t with isMotorOn := b } .none) := by
  rw [exec_setIsMotorOn_of_some hs, if_neg]
  obtain h | h := h <;> simp [h]

/-! #### Positions clamped to the tape (44_tape.md R420) -/

theorem clampPosition_eq (p : Int) (len : Nat) : (clampPosition p len : Int) = min (max p 0) len := by
  unfold clampPosition
  omega

theorem clampPosition_natCast (p len : Nat) : clampPosition p len = min p len := rfl

theorem moveTo_of_legacyTap {l : LegacyTape} (hm : t.medium = .legacyTap l) (p : Nat) :
    t.moveTo p = { t with
      tapePosition := p, medium := .legacyTap { l with cursor := cursorAt l.version l.pulseData p } } := by
  rw [Tape.moveTo, hm]

theorem moveTo_of_not_legacy (hl : t.isLegacy = false) (p : Nat) : t.moveTo p = { t with tapePosition := p } := by
  rw [Tape.moveTo]
  split
  · next hm =>
    rw [isLegacy_of_legacyTap hm] at hl
    cases hl
  · rfl

/-- Settles O44: the fields are those the bodies set, and the position is the clamped one. -/
theorem stopMotorSeek : Obligations.StopMotorSeek := by
  intro s t b q hs
  refine ⟨exec_stop_of_some hs, exec_setIsMotorOn_of_stops hs, exec_setIsMotorOn_of_not_stops hs, seekTarget q t,
    clampPosition_eq _ _, (t.moveTo (seekTarget q t)).medium, exec_tapeSeek_of_some hs q, fun l hm => ?_, fun hl => ?_⟩
  · rw [moveTo_of_legacyTap hm]
  · rw [moveTo_of_not_legacy hl]

/-! #### The nearest cue point (44_tape.md R421) -/

/-- Cue point `c` lies in the direction, at most `k` samples away. -/
def CueWithin (t : Tape) (forward : Bool) (k : Int) (c : Nat) : Prop :=
  c ∈ t.cuePoints ∧
    (if forward then (t.tapePosition : Int) < c ∧ (c : Int) ≤ t.tapePosition + k
      else (t.tapePosition : Int) - k ≤ c ∧ (c : Int) < t.tapePosition)

theorem mem_cuesInRange {forward : Bool} {k : Int} {c : Nat} :
    c ∈ cuesInRange forward k t ↔ CueWithin t forward k c := by
  unfold cuesInRange CueWithin
  cases forward <;> simp

/-- Where the move goes before it is clamped. -/
def cueGoal (forward : Bool) (k : Int) (t : Tape) : Int :=
  if forward then
    match (cuesInRange true k t).min? with
    | some c => c
    | none => t.tapePosition + k
  else
    match (cuesInRange false k t).max? with
    | some c => c
    | none => t.tapePosition - k

theorem cueTarget_eq (forward : Bool) (q : Rat) (t : Tape) :
    cueTarget forward q t = clampPosition (cueGoal forward (maxSkip q t) t) t.tapeLength := by
  cases forward <;> rfl

theorem cueGoal_of_none {forward : Bool} {k : Int} (h : ∀ c, ¬ CueWithin t forward k c) :
    cueGoal forward k t = if forward then t.tapePosition + k else t.tapePosition - k := by
  have hnil : cuesInRange forward k t = [] := List.eq_nil_iff_forall_not_mem.2 fun c hc => h c (mem_cuesInRange.1 hc)
  cases forward <;> simp [cueGoal, hnil]

theorem cueGoal_of_nearest {forward : Bool} {k : Int} {c : Nat} (hc : CueWithin t forward k c)
    (hnear : ∀ d, CueWithin t forward k d → if forward then c ≤ d else d ≤ c) : cueGoal forward k t = c := by
  have hmem := mem_cuesInRange.2 hc
  have hall : ∀ d ∈ cuesInRange forward k t, if forward then c ≤ d else d ≤ c :=
    fun d hd => hnear d (mem_cuesInRange.1 hd)
  cases forward with
  | true =>
    have hmin : (cuesInRange true k t).min? = some c := List.min?_eq_some_iff.2 ⟨hmem, hall⟩
    simp [cueGoal, hmin]
  | false =>
    have hmax : (cuesInRange false k t).max? = some c := List.max?_eq_some_iff.2 ⟨hmem, hall⟩
    simp [cueGoal, hmax]

/-- Settles O45: the goal is the nearest cue point within the skip, or the whole skip. -/
theorem seekToCuePoint : Obligations.SeekToCuePoint := by
  intro s t q forward hs k inRange
  refine ⟨cueTarget forward q t, exec_seekToCuePoint_of_some hs forward q, fun hno => ?_, fun c hc hnear => ?_⟩
  · rw [cueTarget_eq, clampPosition_eq, cueGoal_of_none (k := maxSkip q t) hno]
    rfl
  · rw [cueTarget_eq, cueGoal_of_nearest (k := maxSkip q t) hc hnear, clampPosition_natCast]

end Sys2Proof.Machine

/-! ### Tape: the cue-point operations (44_tape.md R422 to R424) -/

namespace Sys2Proof.Machine

variable {s : State} {t : Tape}

theorem cueDistance_eq (p c : Nat) : cueDistance p c = ((c : Int) - p).natAbs := by
  unfold cueDistance
  split <;> omega

/-- Cue point `c` is nearer to `p` than `d`, or as near and not above it. -/
def NearerCue (p c d : Nat) : Prop :=
  ((c : Int) - p).natAbs < ((d : Int) - p).natAbs ∨ ((c : Int) - p).natAbs = ((d : Int) - p).natAbs ∧ c ≤ d

theorem NearerCue.antisymm {p c d : Nat} (h : NearerCue p c d) (h' : NearerCue p d c) : c = d := by
  unfold NearerCue at h h'
  omega

theorem nearestCue_eq_none_iff {p : Nat} {cs : List Nat} : nearestCue p cs = none ↔ cs = [] := by
  cases cs with
  | nil => simp [nearestCue]
  | cons c cs =>
    rw [nearestCue]
    split
    · simp
    · split <;> simp

/-- What the search finds in an ascending list is in it and nearest. -/
theorem nearestCue_some {p d : Nat} {cs : List Nat} (hasc : cs.Pairwise (fun a b => a < b))
    (h : nearestCue p cs = some d) : d ∈ cs ∧ ∀ e ∈ cs, NearerCue p d e := by
  induction cs generalizing d with
  | nil => cases h
  | cons c cs ih =>
    obtain ⟨hc, hcs⟩ := List.pairwise_cons.1 hasc
    rw [nearestCue] at h
    split at h
    · next hnone =>
      cases h
      obtain rfl := nearestCue_eq_none_iff.1 hnone
      simp [NearerCue]
    · next e he =>
      obtain ⟨hmem, hnear⟩ := ih hcs he
      have hlt := hc e hmem
      rw [cueDistance_eq, cueDistance_eq] at h
      split at h
      · next hle =>
        cases h
        refine ⟨List.mem_cons_self, List.forall_mem_cons.2 ⟨.inr ⟨rfl, Nat.le_refl c⟩, fun x hx => ?_⟩⟩
        have hex := hnear x hx
        have hdx := hc x hx
        unfold NearerCue at hex ⊢
        omega
      · next hgt =>
        cases h
        refine ⟨List.mem_cons_of_mem c hmem, List.forall_mem_cons.2 ⟨.inl (by omega), hnear⟩⟩

theorem nearestCue_of_nearest {p c : Nat} {cs : List Nat} (hasc : cs.Pairwise (fun a b => a < b)) (hc : c ∈ cs)
    (hnear : ∀ d ∈ cs, NearerCue p c d) : nearestCue p cs = some c := by
  cases hfound : nearestCue p cs with
  | none =>
    rw [nearestCue_eq_none_iff.1 hfound] at hc
    cases hc
  | some d =>
    obtain ⟨hd, hdnear⟩ := nearestCue_some hasc hfound
    rw [(hdnear c hc).antisymm (hnear d hd)]

theorem exec_addCuePoint_of_some (hs : s.tape = some t) :
    exec .addCuePoint s =
      if t.tapePosition ∈ t.cuePoints then .next (s.returns (.bool true))
      else if t.cuePoints.length = cueCap ∨ t.tapePosition = cueSentinel then .next (s.returns (.bool false))
      else .next (s.withTape { t with cuePoints := insertCue t.tapePosition t.cuePoints, cueDirty := true }
        (.bool true)) := by
  rw [exec, execAddCuePoint, hs]

theorem exec_deleteNearestCuePoint_of_none_found (hs : s.tape = some t) (h : nearestCue t.tapePosition t.cuePoints = none) :
    exec .deleteNearestCuePoint s = .next (s.returns (.bool false)) := by
  simp only [exec, execDeleteNearestCuePoint, hs, h]

theorem exec_deleteNearestCuePoint_of_found (hs : s.tape = some t) {c : Nat}
    (h : nearestCue t.tapePosition t.cuePoints = some c) :
    exec .deleteNearestCuePoint s = .next (s.withTape
      { t with cuePoints := t.cuePoints.filter (fun d => d != c), cueDirty := true } (.bool true)) := by
  simp only [exec, execDeleteNearestCuePoint, hs, h]

theorem exec_deleteAllCuePoints_of_some (hs : s.tape = some t) :
    exec .deleteAllCuePoints s
      = .next (s.withTape { t with cuePoints := [], cueDirty := t.cueDirty || !t.cuePoints.isEmpty } .none) := by
  rw [exec, execDeleteAllCuePoints, onTape_some hs]

theorem not_isEmpty_eq (cs : List Nat) : (!cs.isEmpty) = decide (cs ≠ []) := by cases cs <;> rfl

/-- Settles O51: the three ends of an add, the nearest cue point found, and the table emptied. -/
theorem cuePoints : Obligations.CuePoints := by
  intro s t hs hasc pos
  refine ⟨fun hmem => ?_, fun hnew hfull => ?_, fun hnew hlen hne => ?_, fun hnil => ?_, fun c hc hnear => ?_, ?_⟩
  · rw [exec_addCuePoint_of_some hs, if_pos hmem]
    rfl
  · rw [exec_addCuePoint_of_some hs, if_neg hnew]
    exact if_pos hfull
  · refine ⟨_, insertCue_pairwise hasc hnew, fun c => mem_insertCue, ?_⟩
    rw [exec_addCuePoint_of_some hs, if_neg hnew]
    exact if_neg (not_or.2 ⟨hlen, hne⟩)
  · exact exec_deleteNearestCuePoint_of_none_found hs (nearestCue_eq_none_iff.2 hnil)
  · exact exec_deleteNearestCuePoint_of_found hs (nearestCue_of_nearest hasc hc hnear)
  · rw [exec_deleteAllCuePoints_of_some hs, not_isEmpty_eq]
    rfl

end Sys2Proof.Machine

/-! ### Tape: store accesses of the deck

What a good write leaves at every byte, and the bytes a read of a store gives, for the formats to share. -/

namespace Sys2Proof.Machine

variable {s : State}

/-! #### Writes -/

/-- The state a good write of `bs` to place `off` of store `id` leaves. -/
def State.wrote (s : State) (id off : Nat) (bs : List Byte) : State := s.ioNext.putStore id ((s.store id).write off bs)

theorem memWrite_of_good (h : s.ioFails = false) (id off : Nat) (bs : List Byte) :
    memWrite id off bs s = (false, s.wrote id off bs) := if_neg (by rw [h]; exact Bool.false_ne_true)

theorem State.wrote_store_of_ne {id x : Nat} (h : x ≠ id) (off : Nat) (bs : List Byte) :
    (s.wrote id off bs).store x = s.store x := by
  rw [State.wrote, State.putStore_store, if_neg h, State.ioNext_store]

theorem State.wrote_byteAt (s : State) (id off : Nat) (bs : List Byte) (x a : Nat) :
    (s.wrote id off bs).byteAt x a
      = if x = id ∧ off ≤ a ∧ a < off + bs.length then bs.getD (a - off) 0 else s.byteAt x a := by
  unfold State.byteAt
  by_cases hx : x = id
  · subst hx
    rw [State.wrote, State.putStore_store, if_pos rfl, Store.read_write]
    simp only [true_and]
  · rw [State.wrote_store_of_ne hx, if_neg fun ⟨h, _⟩ => hx h]

theorem State.byteAt_of_stores_eq {t : State} (h : t.stores = s.stores) (x a : Nat) : t.byteAt x a = s.byteAt x a := by
  rw [State.byteAt, State.store_of_stores_eq h, State.byteAt]

/-! #### Bytes read -/

theorem Memory.drop_readBytes (m : Memory) (a n k : Nat) : (m.readBytes a n).drop k = m.readBytes (a + k) (n - k) := by
  rw [Memory.readBytes_eq, Memory.readBytes_eq]
  refine List.ext_getElem (by simp) fun i _ _ => ?_
  simp [Nat.add_assoc]

theorem Memory.take_readBytes (m : Memory) {a n k : Nat} (h : k ≤ n) : (m.readBytes a n).take k = m.readBytes a k := by
  rw [Memory.readBytes_eq, Memory.readBytes_eq]
  exact List.ext_getElem (by simp [h]) fun i _ _ => by simp

/-- The big-endian number at place `o` of store `id` (20_memory.md R89). -/
def State.be32At (s : State) (id o : Nat) : Nat :=
  (((s.byteAt id o).toNat * 256 + (s.byteAt id (o + 1)).toNat) * 256 + (s.byteAt id (o + 2)).toNat) * 256
    + (s.byteAt id (o + 3)).toNat

/-- The first `n` bytes of store `id`. -/
def State.head (s : State) (id n : Nat) : List Byte := (s.store id).image.2.readBytes 0 n

theorem State.be32_head (s : State) (id : Nat) {n o : Nat} (h : o + 4 ≤ n) : be32 (s.head id n) o = s.be32At id o := by
  rw [be32, State.head, Memory.drop_readBytes, Memory.take_readBytes _ (by omega), Nat.zero_add, Memory.readBytes_eq]
  simp [beNat, List.range_succ, State.be32At, State.byteAt]

theorem State.getD_head (s : State) (id : Nat) {n k : Nat} (h : k < n) : (s.head id n).getD k 0 = s.byteAt id k := by
  rw [State.head, Memory.getD_readBytes _ h, Nat.zero_add, State.byteAt]

theorem State.drop_head (s : State) (id n k : Nat) :
    (s.head id n).drop k = (List.range (n - k)).map fun i => s.byteAt id (k + i) := by
  rw [State.head, Memory.drop_readBytes, Memory.readBytes_eq]
  simp [State.byteAt]

/-- A file starts with the bytes `ms` when each of them is at its place. -/
theorem State.take_head_eq_iff (s : State) (id : Nat) {n : Nat} {ms : List Byte} (h : ms.length ≤ n) :
    (s.head id n).take ms.length = ms ↔ ∀ k, k < ms.length → s.byteAt id k = ms.getD k 0 := by
  rw [State.head, Memory.take_readBytes _ h]
  constructor
  · intro heq k hk
    rw [← heq, Memory.getD_readBytes _ hk, Nat.zero_add, State.byteAt]
  · intro hall
    rw [Memory.readBytes_eq]
    refine List.ext_getElem (by simp) fun i hi hi' => ?_
    have hbyte := hall i hi'
    rw [State.byteAt, List.getD_eq_getElem?_getD, List.getElem?_eq_getElem hi'] at hbyte
    simpa using hbyte

theorem memRead_of_head {id n : Nat} (hlen : n ≤ s.lengthOf id) (h : s.ioFails = false) :
    memRead id 0 n s = (.ok (s.head id n), s.ioNext) := memRead_eq_ok_iff.2 ⟨by omega, h, rfl, rfl⟩

/-! #### The last result does not matter to an access -/

theorem memWrite_returns (id off : Nat) (bs : List Byte) (s : State) (r : Result) :
    memWrite id off bs (s.returns r) = ((memWrite id off bs s).1, (memWrite id off bs s).2.returns r) := by
  unfold memWrite
  rw [State.returns_store, State.returns_ioFails, State.returns_ioNext]
  split <;> rfl

theorem putSound_returns (id : Nat) (c : Sound) (s : State) (r : Result) :
    putSound id c (s.returns r) = ((putSound id c s).1, (putSound id c s).2.returns r) := by
  unfold putSound
  rw [State.returns_ioFails, State.returns_ioNext]
  split <;> rfl

end Sys2Proof.Machine

/-! ### Tape: open and close (44_tape.md R400, R425)

An open with no tape in the deck is its format's rule; the last result does not matter to it, so an open over a tape is the
open after its close. -/

namespace Sys2Proof.Machine

variable {s : State} {a : OpenArgs}

theorem exec_openTape (a : OpenArgs) (s : State) : exec (.openTape a) s = .next (openTape a s) := rfl

theorem openTape_of_bad_bits (hs : s.tape = none) (hreq : validBits a.requestedBits = false) :
    openTape a s = s.raise .badFormat := by
  rw [openTape, closeTape_of_none hs, hreq]
  rfl

theorem openTape_of_ok (hs : s.tape = none) (hreq : validBits a.requestedBits = true) {t : Tape} {u : State}
    (h : openFormat a s = (.ok t, u)) : openTape a s = u.withTape t .none := by
  rw [openTape, closeTape_of_none hs, hreq]
  simp only [h, if_true]

theorem openTape_of_error (hs : s.tape = none) (hreq : validBits a.requestedBits = true) {k : IoError} {u : State}
    (h : openFormat a s = (.error k, u)) : openTape a s = u.raise k := by
  rw [openTape, closeTape_of_none hs, hreq]
  simp only [h, if_true]

/-! #### The last result does not matter to an open -/

theorem openNative_returns (a : OpenArgs) (base : Tape) (s : State) (r : Result) :
    openNative a base (s.returns r) = ((openNative a base s).1, (openNative a base s).2.returns r) := by
  unfold openNative
  rw [memRead_returns, memWrite_returns]
  split
  · split
    · rfl
    · dsimp only
      split <;> rfl
  · obtain ⟨h | _ | _, s1⟩ := memRead a.store 0 4096 s
    · dsimp only
      split <;> rfl
    · rfl
    · rfl

theorem readPulseData_returns (id : Nat) (s : State) (r : Result) :
    readPulseData id (s.returns r) = ((readPulseData id s).1, (readPulseData id s).2.returns r) := by
  unfold readPulseData
  dsimp only
  rw [State.returns_store, memRead_returns]
  split <;> rfl

theorem openLegacyTap_returns (a : OpenArgs) (base : Tape) (s : State) (r : Result) :
    openLegacyTap a base (s.returns r) = ((openLegacyTap a base s).1, (openLegacyTap a base s).2.returns r) := by
  unfold openLegacyTap
  rw [memRead_returns]
  split
  · rfl
  obtain ⟨h | _ | _, s1⟩ := memRead a.store 0 20 s
  · dsimp only
    cases parseLegacyHeader h with
    | none => rfl
    | some v =>
      dsimp only
      rw [readPulseData_returns]
      obtain ⟨data | _ | _, s2⟩ := readPulseData a.store s1 <;> rfl
  · rfl
  · rfl

theorem openSoundFile_returns (a : OpenArgs) (base : Tape) (s : State) (r : Result) :
    openSoundFile a base (s.returns r) = ((openSoundFile a base s).1, (openSoundFile a base s).2.returns r) := by
  unfold openSoundFile
  rw [putSound_returns, State.returns_ioFails, State.returns_ioNext, State.returns_store]
  split
  · split
    · rfl
    · dsimp only
      split <;> rfl
  split
  · rfl
  cases soundOf (s.store a.store) with
  | none => rfl
  | some c =>
    dsimp only
    split <;> rfl

theorem openFormat_returns (a : OpenArgs) (s : State) (r : Result) :
    openFormat a (s.returns r) = ((openFormat a s).1, (openFormat a s).2.returns r) := by
  unfold openFormat
  cases a.fmt with
  | native => exact openNative_returns a _ s r
  | legacyTap => exact openLegacyTap_returns a _ s r
  | soundFile => exact openSoundFile_returns a _ s r

theorem openTape_closeTape (a : OpenArgs) (s : State) (r : Result) :
    openTape a ((closeTape s).returns r) = openTape a s := by
  have hnone : ((closeTape s).returns r).tape = none := closeTape_tape s
  unfold openTape
  rw [closeTape_of_none hnone]
  dsimp only
  rw [openFormat_returns]
  obtain ⟨k | t, u⟩ := openFormat a (closeTape s) <;> rfl

theorem closeTape_stores {t : Tape} (hs : s.tape = some t) : (closeTape s).stores = (flushInto t s).stores := by
  rw [closeTape, hs, flushInto]
  dsimp only
  split <;> rfl

/-- Settles O52: the close leaves no tape, and an open begins with that close. -/
theorem closeTape_spec : Obligations.CloseTape := by
  intro s a
  refine ⟨(closeTape s).returns .none, exec_closeTape s, closeTape_tape s, rfl, fun t hs => closeTape_stores hs, ?_⟩
  rw [exec_openTape, exec_openTape, openTape_closeTape]

/-! #### An open that fails changes no store -/

theorem openNative_error_stores {base : Tape} {k : IoError} {u : State} (h : openNative a base s = (.error k, u)) :
    u.stores = s.stores := by
  unfold openNative at h
  split at h
  · split at h
    · cases h
      rfl
    obtain ⟨-, hw⟩ | ⟨-, hw⟩ := memWrite_cases a.store 0 (nativeHeader a.fileBits a.sampleRate []) s <;> rw [hw] at h
    · cases h
      exact s.ioNext_stores
    · cases h
  · have hread := memRead_stores a.store 0 4096 s
    generalize memRead a.store 0 4096 s = out at h hread
    obtain ⟨bs | _ | _, s1⟩ := out
    · dsimp only at h
      split at h
      · cases h
        exact hread
      · cases h
    · cases h
      exact hread
    · cases h
      exact hread

theorem readPulseData_stores (id : Nat) (s : State) : (readPulseData id s).2.stores = s.stores := by
  unfold readPulseData
  dsimp only
  split
  · rfl
  · exact memRead_stores id 20 _ s

theorem openLegacyTap_stores (a : OpenArgs) (base : Tape) (s : State) :
    (openLegacyTap a base s).2.stores = s.stores := by
  unfold openLegacyTap
  split
  · rfl
  have hread := memRead_stores a.store 0 20 s
  generalize memRead a.store 0 20 s = out at hread ⊢
  obtain ⟨bs | _ | _, s1⟩ := out
  · dsimp only
    cases parseLegacyHeader bs with
    | none => exact hread
    | some v =>
      have hdata := readPulseData_stores a.store s1
      dsimp only
      generalize readPulseData a.store s1 = out at hdata ⊢
      obtain ⟨data | _ | _, s2⟩ := out
      · exact hdata.trans hread
      · exact hdata.trans hread
      · exact hdata.trans hread
  · exact hread
  · exact hread

theorem openSoundFile_error_stores {base : Tape} {k : IoError} {u : State}
    (h : openSoundFile a base s = (.error k, u)) : u.stores = s.stores := by
  unfold openSoundFile at h
  split at h
  · split at h
    · cases h
      rfl
    obtain ⟨-, hw⟩ | ⟨-, hw⟩ := putSound_cases a.store (emptySound a.sampleRate) s <;> rw [hw] at h
    · cases h
      exact s.ioNext_stores
    · cases h
  split at h
  · cases h
    exact s.ioNext_stores
  split at h
  · cases h
    exact s.ioNext_stores
  split at h
  · cases h
    exact s.ioNext_stores
  · cases h

theorem openFormat_error_stores {k : IoError} {u : State} (h : openFormat a s = (.error k, u)) : u.stores = s.stores := by
  unfold openFormat at h
  split at h
  · exact openNative_error_stores h
  · rw [← openLegacyTap_stores a (openingTape a) s, h]
  · exact openSoundFile_error_stores h

/-- The open ends with `HostIoError(k)`, no tape in the deck and everything else as it was. -/
def OpenFails (s : State) (a : OpenArgs) (k : IoError) : Prop :=
  (openTape a s).result = .hostIoError k ∧ (openTape a s).tape = none ∧ (openTape a s).stores = s.stores
    ∧ (openTape a s).tbm = s.tbm ∧ (openTape a s).fdc = s.fdc

theorem openFails_of_bad_bits (hs : s.tape = none) (hreq : validBits a.requestedBits = false) :
    OpenFails s a .badFormat := by
  rw [OpenFails, openTape_of_bad_bits hs hreq]
  exact ⟨rfl, hs, rfl, rfl, rfl⟩

theorem openFails_of_error (hs : s.tape = none) (hreq : validBits a.requestedBits = true) {k : IoError} {u : State}
    (h : openFormat a s = (.error k, u)) : OpenFails s a k := by
  have hkeeps := openFormat_keepsBlocks a s
  have hstores := openFormat_error_stores h
  rw [h] at hkeeps
  rw [OpenFails, openTape_of_error hs hreq h]
  exact ⟨rfl, hkeeps.tape.trans hs, hstores, hkeeps.tbm, hkeeps.fdc⟩

end Sys2Proof.Machine

/-! ### Tape: the three open rules (44_tape.md R401, R441, R450)

How each rule ends, by the arguments, the bytes of the file and the draws. -/

namespace Sys2Proof.Machine

variable {s : State} {a : OpenArgs} {base : Tape}

/-! #### Native (44_tape.md R401, 30_encoding.md R160 to R162) -/

/-- The file starts with a Native header: the magic, a legal resolution and a rate. -/
def State.NativeHeaderOk (s : State) (id : Nat) : Prop :=
  (∀ k, k < 8 → s.byteAt id k = tapeMagic.getD k 0) ∧ validBits (s.be32At id 8) = true ∧ s.be32At id 12 ≠ 0

/-- The cue points a Native header holds. -/
def State.headerCues (s : State) (id : Nat) : List Nat :=
  readCueSlots ((List.range 4080).map fun k => s.byteAt id (16 + k))

theorem nativeHeaderOk_iff {id : Nat} :
    s.NativeHeaderOk id ↔ (s.head id 4096).take 8 = tapeMagic ∧ validBits (be32 (s.head id 4096) 8) = true
      ∧ be32 (s.head id 4096) 12 ≠ 0 := by
  have hmagic := s.take_head_eq_iff id (n := 4096) (ms := tapeMagic) (by decide)
  rw [State.be32_head s id (by omega), State.be32_head s id (by omega)]
  exact and_congr hmagic.symm Iff.rfl

theorem parseNativeHeader_of_ok {id : Nat} (h : s.NativeHeaderOk id) :
    parseNativeHeader (s.head id 4096) = some (s.be32At id 8, s.be32At id 12, s.headerCues id) := by
  rw [parseNativeHeader, if_pos (nativeHeaderOk_iff.1 h), State.be32_head s id (by omega),
    State.be32_head s id (by omega), State.drop_head, State.headerCues]

theorem parseNativeHeader_of_not_ok {id : Nat} (h : ¬ s.NativeHeaderOk id) :
    parseNativeHeader (s.head id 4096) = none := by
  rw [parseNativeHeader, if_neg (mt nativeHeaderOk_iff.2 h)]

theorem openNative_create_of_bad (hmode : a.mode = .create) (h : a.sampleRate = 0 ∨ validBits a.fileBits = false) :
    openNative a base s = (.error .badFormat, s) := by
  rw [openNative, if_pos hmode, if_pos h]

theorem openNative_create_of_fails (hmode : a.mode = .create) (h : ¬ (a.sampleRate = 0 ∨ validBits a.fileBits = false))
    (hfails : s.nextFails) : openNative a base s = (.error .write, s.ioNext) := by
  rw [openNative, if_pos hmode, if_neg h, memWrite_of_fails hfails]
  rfl

theorem openNative_create_of_good (hmode : a.mode = .create) (h : ¬ (a.sampleRate = 0 ∨ validBits a.fileBits = false))
    (hgood : s.ioFails = false) :
    openNative a base s = (.ok (nativeTape base a.fileBits a.sampleRate 0 []),
      s.wrote a.store 0 (nativeHeader a.fileBits a.sampleRate [])) := by
  rw [openNative, if_pos hmode, if_neg h, memWrite_of_good hgood]
  rfl

theorem openNative_of_short (hmode : a.mode ≠ .create) (hlen : s.lengthOf a.store < 4096) :
    openNative a base s = (.error .badFormat, s) := by
  rw [openNative, if_neg hmode, memRead_of_short (by omega)]

theorem openNative_of_read_fails (hmode : a.mode ≠ .create) (hlen : 4096 ≤ s.lengthOf a.store) (hfails : s.nextFails) :
    openNative a base s = (.error .read, s.ioNext) := by
  rw [openNative, if_neg hmode, memRead_of_fails (by omega) hfails]

theorem openNative_of_bad_header (hmode : a.mode ≠ .create) (hlen : 4096 ≤ s.lengthOf a.store) (hgood : s.ioFails = false)
    (h : ¬ s.NativeHeaderOk a.store) : openNative a base s = (.error .badFormat, s.ioNext) := by
  simp only [openNative, if_neg hmode, memRead_of_head hlen hgood, parseNativeHeader_of_not_ok h]

theorem openNative_of_header (hmode : a.mode ≠ .create) (hlen : 4096 ≤ s.lengthOf a.store) (hgood : s.ioFails = false)
    (h : s.NativeHeaderOk a.store) :
    openNative a base s = (.ok (nativeTape base (s.be32At a.store 8) (s.be32At a.store 12)
      (nativeLength (s.lengthOf a.store) (s.be32At a.store 8)) (s.headerCues a.store)), s.ioNext) := by
  simp only [openNative, if_neg hmode, memRead_of_head hlen hgood, parseNativeHeader_of_ok h, State.ioNext_store]
  rfl

/-! #### The header of an empty tape (30_encoding.md R160, R161) -/

theorem getD_append_replicate {α : Type} (xs : List α) (n : Nat) (v d : α) {k : Nat} (h : k < xs.length + n) :
    (xs ++ List.replicate n v).getD k d = xs.getD k v := by
  by_cases hk : k < xs.length
  · rw [List.getD_append _ _ _ _ hk, List.getD_eq_getElem _ _ hk, List.getD_eq_getElem _ _ hk]
  · rw [List.getD_append_right _ _ _ _ (by omega), List.getD_replicate _ (by omega), List.getD_eq_default _ _ (by omega)]

/-- After the cue points every byte of the slots is 0xFF. -/
theorem slotBytes_eq (cues : List Nat) :
    slotBytes cues = cues.flatMap (beBytes 4) ++ List.replicate ((1020 - cues.length) * 4) 0xFF := by
  have hsentinel : beBytes 4 cueSentinel = List.replicate 4 0xFF := by decide
  rw [slotBytes, List.flatMap_append, List.flatMap_replicate, hsentinel, List.flatten_replicate_replicate]

theorem nativeHeader_nil_length (fileBits rate : Nat) : (nativeHeader fileBits rate []).length = 4096 := by
  have hslots : (slotBytes []).length = 4080 := slotBytes_length (Nat.zero_le _)
  have hmagic : tapeMagic.length = 8 := rfl
  simp [nativeHeader, hslots, hmagic]

theorem getD_nativeHeader_nil (fileBits rate : Nat) {k : Nat} (h : k < 4096) :
    (nativeHeader fileBits rate []).getD k 0 = (tapeMagic ++ beBytes 4 fileBits ++ beBytes 4 rate).getD k 0xFF := by
  have hmagic : tapeMagic.length = 8 := rfl
  rw [nativeHeader, slotBytes_eq]
  exact getD_append_replicate _ _ _ _ (by simp [hmagic]; omega)

/-! #### LegacyTap (44_tape.md R441, 30_encoding.md R163) -/

/-- The version byte of a C16 TAP header. -/
def versionByte : TapVersion → Byte
  | .old => 0x01
  | .new => 0x02

/-- The file starts with a C16 TAP header of version `v`. -/
def State.TapHeaderOk (s : State) (id : Nat) (v : TapVersion) : Prop :=
  (∀ k, k < 12 → s.byteAt id k = c16Magic.getD k 0) ∧ s.byteAt id 12 = versionByte v

theorem parseLegacyHeader_of_ok {id : Nat} {v : TapVersion} (h : s.TapHeaderOk id v) :
    parseLegacyHeader (s.head id 20) = some v := by
  obtain ⟨hmagic, hversion⟩ := h
  have htake : (s.head id 20).take 12 = c16Magic :=
    (s.take_head_eq_iff id (n := 20) (ms := c16Magic) (by decide)).2 hmagic
  rw [parseLegacyHeader, if_pos htake, s.getD_head id (by omega), hversion]
  cases v <;> rfl

theorem parseLegacyHeader_of_not_ok {id : Nat} (h : ∀ v, ¬ s.TapHeaderOk id v) :
    parseLegacyHeader (s.head id 20) = none := by
  have hmagic := s.take_head_eq_iff id (n := 20) (ms := c16Magic) (by decide)
  rw [parseLegacyHeader, s.getD_head id (by omega)]
  split
  · next htake =>
    have hold : s.byteAt id 12 ≠ 0x01 := fun hbyte => h .old ⟨hmagic.1 htake, hbyte⟩
    have hnew : s.byteAt id 12 ≠ 0x02 := fun hbyte => h .new ⟨hmagic.1 htake, hbyte⟩
    rw [if_neg hold, if_neg hnew]
  · rfl

theorem openLegacyTap_of_bad_mode (hmode : a.mode ≠ .readOnly) : openLegacyTap a base s = (.error .badMode, s) := by
  rw [openLegacyTap, if_pos hmode]

theorem openLegacyTap_of_short (hmode : a.mode = .readOnly) (hlen : s.lengthOf a.store < 20) :
    openLegacyTap a base s = (.error .badFormat, s) := by
  rw [openLegacyTap, if_neg (not_not.2 hmode), memRead_of_short (by omega)]

theorem openLegacyTap_of_read_fails (hmode : a.mode = .readOnly) (hlen : 20 ≤ s.lengthOf a.store) (hfails : s.nextFails) :
    openLegacyTap a base s = (.error .read, s.ioNext) := by
  rw [openLegacyTap, if_neg (not_not.2 hmode), memRead_of_fails (by omega) hfails]

theorem openLegacyTap_of_bad_header (hmode : a.mode = .readOnly) (hlen : 20 ≤ s.lengthOf a.store)
    (hgood : s.ioFails = false) (h : ∀ v, ¬ s.TapHeaderOk a.store v) :
    openLegacyTap a base s = (.error .badFormat, s.ioNext) := by
  simp only [openLegacyTap, if_neg (not_not.2 hmode), memRead_of_head hlen hgood, parseLegacyHeader_of_not_ok h]

theorem openLegacyTap_of_data {v : TapVersion} (hmode : a.mode = .readOnly) (hlen : 20 ≤ s.lengthOf a.store)
    (hgood : s.ioFails = false) (h : s.TapHeaderOk a.store v) {data : List Byte} {u : State}
    (hdata : readPulseData a.store s.ioNext = (.ok data, u)) :
    openLegacyTap a base s = (.ok (legacyTape base v data), u) := by
  simp only [openLegacyTap, if_neg (not_not.2 hmode), memRead_of_head hlen hgood, parseLegacyHeader_of_ok h, hdata]

theorem openLegacyTap_of_data_fails {v : TapVersion} (hmode : a.mode = .readOnly) (hlen : 20 ≤ s.lengthOf a.store)
    (hgood : s.ioFails = false) (h : s.TapHeaderOk a.store v) {u : State}
    (hdata : readPulseData a.store s.ioNext = (.ioerr, u)) :
    openLegacyTap a base s = (.error .read, u) := by
  simp only [openLegacyTap, if_neg (not_not.2 hmode), memRead_of_head hlen hgood, parseLegacyHeader_of_ok h, hdata]

theorem readPulseData_of_fails {id : Nat} (hlen : 20 < s.lengthOf id) (hfails : s.nextFails) :
    readPulseData id s = (.ioerr, s.ioNext) := by
  unfold State.lengthOf at hlen
  rw [readPulseData, if_neg (by omega), memRead_of_fails (by unfold State.lengthOf; omega) hfails]

/-- The bytes of a file from byte 20 to its end. -/
def State.pulseData (s : State) (id : Nat) : List Byte :=
  (List.range (s.lengthOf id - 20)).map fun k => s.byteAt id (20 + k)

/-- Pulse data read whole; a file with none takes no draw. -/
theorem readPulseData_of_good {id : Nat} (hgood : 20 < s.lengthOf id → s.ioFails = false) :
    ∃ u, readPulseData id s = (.ok (s.pulseData id), u) := by
  unfold State.pulseData
  by_cases hlen : 20 < s.lengthOf id
  · refine ⟨s.ioNext, ?_⟩
    rw [readPulseData, if_neg (by unfold State.lengthOf at hlen; omega),
      memRead_eq_ok_iff.2 ⟨by unfold State.lengthOf at hlen ⊢; omega, hgood hlen, rfl, rfl⟩, Memory.readBytes_eq]
    rfl
  · have hnone : s.lengthOf id - 20 = 0 := by omega
    refine ⟨s, ?_⟩
    rw [hnone]
    exact if_pos hnone

/-! #### SoundFile (44_tape.md R450) -/

theorem openSoundFile_create_of_bad (hmode : a.mode = .create) (h : a.sampleRate = 0 ∨ 1 ≤ a.channel) :
    openSoundFile a base s = (.error .badFormat, s) := by
  rw [openSoundFile, if_pos hmode, if_pos h]

theorem openSoundFile_create_of_fails (hmode : a.mode = .create) (h : ¬ (a.sampleRate = 0 ∨ 1 ≤ a.channel))
    (hfails : s.ioFails = true) : openSoundFile a base s = (.error .write, s.ioNext) := by
  rw [openSoundFile, if_pos hmode, if_neg h, putSound, if_pos hfails]
  rfl

theorem openSoundFile_create_of_good (hmode : a.mode = .create) (h : ¬ (a.sampleRate = 0 ∨ 1 ≤ a.channel))
    (hgood : s.ioFails = false) :
    openSoundFile a base s = (.ok (soundTape a base (emptySound a.sampleRate)),
      s.ioNext.putStore a.store (.container (emptySound a.sampleRate))) := by
  rw [openSoundFile, if_pos hmode, if_neg h, putSound, hgood]
  rfl

theorem openSoundFile_of_read_fails (hmode : a.mode ≠ .create) (hfails : s.ioFails = true) :
    openSoundFile a base s = (.error .badFormat, s.ioNext) := by
  rw [openSoundFile, if_neg hmode, if_pos hfails]

theorem openSoundFile_of_unreadable (hmode : a.mode ≠ .create) (h : soundOf (s.store a.store) = none) :
    openSoundFile a base s = (.error .badFormat, s.ioNext) := by
  rw [openSoundFile, if_neg hmode, h]
  split <;> rfl

theorem openSoundFile_of_bad_channel (hmode : a.mode ≠ .create) {c : Sound} (h : soundOf (s.store a.store) = some c)
    (hchannel : c.nChannels ≤ a.channel) : openSoundFile a base s = (.error .badFormat, s.ioNext) := by
  simp only [openSoundFile, if_neg hmode, h, if_pos hchannel, ite_self]

theorem openSoundFile_of_container (hmode : a.mode ≠ .create) (hgood : s.ioFails = false) {c : Sound}
    (h : soundOf (s.store a.store) = some c) (hchannel : a.channel < c.nChannels) :
    openSoundFile a base s = (.ok (soundTape a base c), s.ioNext) := by
  rw [openSoundFile, if_neg hmode, hgood, h]
  exact if_neg (Nat.not_le.2 hchannel)

/-! #### The rule of the format -/

theorem openFormat_of_native (h : a.fmt = .native) : openFormat a s = openNative a (openingTape a) s := by
  rw [openFormat, h]

theorem openFormat_of_legacyTap (h : a.fmt = .legacyTap) : openFormat a s = openLegacyTap a (openingTape a) s := by
  rw [openFormat, h]

theorem openFormat_of_soundFile (h : a.fmt = .soundFile) : openFormat a s = openSoundFile a (openingTape a) s := by
  rw [openFormat, h]

/-! #### The opens that succeed -/

/-- Settles O53: the header written, and the header read. -/
theorem openNative_spec : Obligations.OpenNative := by
  constructor
  · intro s a hs hfmt hmode hreq hbits hrate hgood
    have hlegal : ¬ (a.sampleRate = 0 ∨ validBits a.fileBits = false) := by simp [hbits, Nat.ne_of_gt hrate]
    have hopen := openTape_of_ok hs hreq ((openFormat_of_native hfmt).trans
      (openNative_create_of_good hmode hlegal (State.noFailure_ioFails hgood)))
    refine ⟨_, exec_openTape a s, ?_, ?_, fun x k => ?_⟩
    · rw [hopen]
      rfl
    · rw [hopen, ← hmode]
      rfl
    · have hbyte := s.wrote_byteAt a.store 0 (nativeHeader a.fileBits a.sampleRate []) x k
      rw [nativeHeader_nil_length] at hbyte
      rw [hopen]
      refine hbyte.trans ?_
      simp only [Nat.zero_le, true_and, Nat.zero_add, Nat.sub_zero]
      split
      · next hplace =>
        obtain ⟨-, hk⟩ := hplace
        exact getD_nativeHeader_nil _ _ hk
      · rfl
  · intro s a hs hfmt hmode hreq hlen hgood hmagic word hbits hrate
    have hheader : s.NativeHeaderOk a.store := ⟨hmagic, hbits, hrate⟩
    rw [exec_openTape, openTape_of_ok hs hreq ((openFormat_of_native hfmt).trans
      (openNative_of_header hmode hlen (State.noFailure_ioFails hgood) hheader))]
    rfl

/-- Settles O57: a C16 TAP file with its pulse data, a container read, and a container made. -/
theorem openLegacyTapAndSoundFile : Obligations.OpenLegacyTapAndSoundFile := by
  constructor
  · intro s a v hs hfmt hmode hreq hlen hgood hmagic hversion data len
    have hheader : s.TapHeaderOk a.store v := ⟨hmagic, hversion.trans (by cases v <;> rfl)⟩
    have hfirst : s.ioFails = false :=
      State.noFailure_ioFails (State.noFailure_mono (m := 1) hgood (by split <;> omega))
    have hsecond : 20 < s.ioNext.lengthOf a.store → s.ioNext.ioFails = false := by
      intro hlong
      rw [State.lengthOf, State.ioNext_store, ← State.lengthOf] at hlong
      rw [if_pos hlong] at hgood
      exact State.noFailure_ioFails (State.noFailure_ioNext hgood)
    obtain ⟨u, hread⟩ := readPulseData_of_good hsecond
    have hformat := (openFormat_of_legacyTap hfmt).trans
      (openLegacyTap_of_data (base := openingTape a) hmode hlen hfirst hheader hread)
    have hkeeps := openFormat_keepsBlocks a s
    have hstores := openLegacyTap_stores a (openingTape a) s
    rw [← openFormat_of_legacyTap hfmt, hformat] at hstores
    rw [hformat] at hkeeps
    have hdata : s.ioNext.pulseData a.store = data := by
      simp only [State.pulseData, State.lengthOf, State.byteAt, State.ioNext_store, data]
    rw [hdata] at hformat
    refine ⟨_, exec_openTape a s, ?_, ?_, ?_, ?_, ?_⟩ <;> rw [openTape_of_ok hs hreq hformat]
    · rfl
    · exact hstores
    · exact hkeeps.tbm
    · exact hkeeps.fdc
    · rw [← hmode]
      rfl
  intro s a hs hfmt hreq hgood opened
  constructor
  · intro c hmode hsound hchannel
    rw [exec_openTape, openTape_of_ok hs hreq ((openFormat_of_soundFile hfmt).trans
      (openSoundFile_of_container hmode (State.noFailure_ioFails hgood) hsound hchannel))]
    rfl
  · intro hmode hrate hchannel c
    have hlegal : ¬ (a.sampleRate = 0 ∨ 1 ≤ a.channel) := by omega
    have hopen := openTape_of_ok hs hreq ((openFormat_of_soundFile hfmt).trans
      (openSoundFile_create_of_good hmode hlegal (State.noFailure_ioFails hgood)))
    have hstore := s.ioNext.putStore_store a.store
    refine ⟨_, exec_openTape a s, ?_, ?_, ?_, ?_, ?_, fun x hx => ?_⟩ <;> rw [hopen]
    · rfl
    · exact s.ioNext_tbm
    · exact s.ioNext_fdc
    · rfl
    · exact (hstore a.store _).trans (if_pos rfl)
    · exact (hstore x _).trans ((if_neg hx).trans (s.ioNext_store x))

/-! #### The opens that fail -/

theorem not_nativeHeaderOk {id : Nat} (h : (∃ k, k < 8 ∧ s.byteAt id k ≠ tapeMagic.getD k 0)
    ∨ validBits (s.be32At id 8) = false ∨ s.be32At id 12 = 0) : ¬ s.NativeHeaderOk id := by
  rintro ⟨hmagic, hbits, hrate⟩
  obtain ⟨k, hk, hne⟩ | hbad | hzero := h
  · exact hne (hmagic k hk)
  · exact Bool.false_ne_true (hbad.symm.trans hbits)
  · exact hrate hzero

/-- What makes a file no C16 TAP file. -/
def State.BadTap (s : State) (id : Nat) : Prop :=
  (∃ k, k < 12 ∧ s.byteAt id k ≠ c16Magic.getD k 0) ∨ s.byteAt id 12 ≠ 0x01 ∧ s.byteAt id 12 ≠ 0x02

theorem not_tapHeaderOk {id : Nat} (h : s.BadTap id) (v : TapVersion) : ¬ s.TapHeaderOk id v := by
  rintro ⟨hmagic, hversion⟩
  obtain ⟨k, hk, hne⟩ | ⟨hold, hnew⟩ := h
  · exact hne (hmagic k hk)
  · cases v with
    | old => exact hold hversion
    | new => exact hnew hversion

theorem tapHeaderOk_of_not_badTap {id : Nat} (h : ¬ s.BadTap id) : ∃ v, s.TapHeaderOk id v := by
  obtain ⟨hmagic, hversion⟩ := not_or.1 h
  have hall : ∀ k, k < 12 → s.byteAt id k = c16Magic.getD k 0 := fun k hk => by
    by_contra hne
    exact hmagic ⟨k, hk, hne⟩
  by_cases hold : s.byteAt id 12 = 0x01
  · exact ⟨.old, hall, hold⟩
  · exact ⟨.new, hall, by_contra fun hnew => hversion ⟨hold, hnew⟩⟩

/-- Settles O56: each refusal is the end of its format's rule. -/
theorem openTapeRefuses : Obligations.OpenTapeRefuses := by
  intro s a hs len byte word badNative badTap
  refine ⟨_, exec_openTape a s, openFails_of_bad_bits hs, fun hreq => ?_⟩
  have hnative {k : IoError} {u : State} (hfmt : a.fmt = .native)
      (h : openNative a (openingTape a) s = (.error k, u)) : OpenFails s a k :=
    openFails_of_error hs hreq ((openFormat_of_native hfmt).trans h)
  have hlegacy {k : IoError} {u : State} (hfmt : a.fmt = .legacyTap)
      (h : openLegacyTap a (openingTape a) s = (.error k, u)) : OpenFails s a k :=
    openFails_of_error hs hreq ((openFormat_of_legacyTap hfmt).trans h)
  have hsoundFile {k : IoError} {u : State} (hfmt : a.fmt = .soundFile)
      (h : openSoundFile a (openingTape a) s = (.error k, u)) : OpenFails s a k :=
    openFails_of_error hs hreq ((openFormat_of_soundFile hfmt).trans h)
  refine ⟨fun hfmt hmode => ⟨fun hbad => ?_, fun hrate hbits hfails => ?_⟩,
    fun hfmt hmode => ⟨fun hlen => ?_, fun hlen hfails => ?_, fun hlen hgood hbad => ?_⟩,
    fun hfmt hmode => hlegacy hfmt (openLegacyTap_of_bad_mode hmode),
    fun hfmt hmode => ⟨fun hlen => ?_, fun hlen hfails => ?_, fun hlen hgood hbad => ?_,
      fun hlen hgood hok hfails => ?_⟩,
    fun hfmt hmode => ⟨fun hbad => ?_, fun hrate hchannel hfails => ?_⟩,
    fun hfmt hmode h => ?_⟩
  · exact hnative hfmt (openNative_create_of_bad hmode hbad)
  · exact hnative hfmt (openNative_create_of_fails hmode (by simp [hrate, hbits]) hfails)
  · exact hnative hfmt (openNative_of_short hmode hlen)
  · exact hnative hfmt (openNative_of_read_fails hmode hlen hfails)
  · exact hnative hfmt
      (openNative_of_bad_header hmode hlen (State.noFailure_ioFails hgood) (not_nativeHeaderOk hbad))
  · exact hlegacy hfmt (openLegacyTap_of_short hmode hlen)
  · exact hlegacy hfmt (openLegacyTap_of_read_fails hmode hlen hfails)
  · exact hlegacy hfmt
      (openLegacyTap_of_bad_header hmode hlen (State.noFailure_ioFails hgood) (not_tapHeaderOk hbad))
  · obtain ⟨v, hheader⟩ := tapHeaderOk_of_not_badTap (id := a.store) hok
    have hlong : 20 < s.ioNext.lengthOf a.store := by
      rw [State.lengthOf, State.ioNext_store]
      exact hlen
    exact hlegacy hfmt (openLegacyTap_of_data_fails hmode (Nat.le_of_lt hlen) (State.noFailure_ioFails hgood) hheader
      (readPulseData_of_fails hlong hfails))
  · exact hsoundFile hfmt (openSoundFile_create_of_bad hmode (hbad.imp_right Nat.pos_of_ne_zero))
  · exact hsoundFile hfmt (openSoundFile_create_of_fails hmode (by omega) hfails)
  · obtain hfails | hnone | ⟨c, hsound, hchannel⟩ := h
    · exact hsoundFile hfmt (openSoundFile_of_read_fails hmode hfails)
    · exact hsoundFile hfmt (openSoundFile_of_unreadable hmode hnone)
    · exact hsoundFile hfmt (openSoundFile_of_bad_channel hmode hsound hchannel)

end Sys2Proof.Machine

/-! ### Tape: the sample tick (44_tape.md R410, R426; 60_exceptions.md R535)

What a tick does by the keys and the position, and what it leaves when the block of a Native tape has been brought in. -/

namespace Sys2Proof.Machine

variable {s : State} {t : Tape}

/-! #### Idle, playing, recording -/

/-- Nothing moves: the motor off, no key, playback at the end, recording at the limit or past it. -/
theorem tick_of_idle (h : t.isMotorOn = false ∨ t.isRecordOn = false ∧ t.isPlaybackOn = false
    ∨ t.isRecordOn = false ∧ t.tapeLength ≤ t.tapePosition ∨ t.isRecordOn = true ∧ tapeLimit ≤ t.tapePosition) :
    tick t s = s.withTape { t with inputState := 0 } .none := by
  unfold tick
  obtain hmotor | ⟨hrec, hplay⟩ | ⟨hrec, hend⟩ | ⟨hrec, hlimit⟩ := h
  · simp [hmotor]
  · simp [hrec, hplay]
  · simp [hrec, Nat.not_lt.2 hend]
  · cases hmotor : t.isMotorOn <;> simp [hrec, hlimit]

theorem tick_of_plays (hmotor : t.isMotorOn = true) (hrec : t.isRecordOn = false) (hplay : t.isPlaybackOn = true)
    (hpos : t.tapePosition < t.tapeLength) : tick t s = playTick t s := by
  simp [tick, hmotor, hrec, hplay, hpos]

theorem tick_of_records (hmotor : t.isMotorOn = true) (hrec : t.isRecordOn = true) (hpos : t.tapePosition < tapeLimit) :
    tick t s = recordTick t s := by
  simp [tick, hmotor, hrec, Nat.not_le.2 hpos]

theorem deleteCueAt_spec (p : Nat) (t : Tape) :
    deleteCueAt p t = { t with
      cuePoints := t.cuePoints.filter (fun c => c != p), cueDirty := t.cueDirty || decide (p ∈ t.cuePoints) } := by
  unfold deleteCueAt
  by_cases hp : p ∈ t.cuePoints
  · simp [hp]
  · have hall : t.cuePoints.filter (fun c => c != p) = t.cuePoints :=
      List.filter_eq_self.2 fun c hc => bne_iff_ne.2 fun heq => hp (heq ▸ hc)
    simp [hp, hall]

/-! #### A Native tape with its block brought in (44_tape.md R430, R431) -/

/-- The tape after a sample is played from block `n`. -/
def Tape.playedNative (t : Tape) (n : NativeTape) : Tape := { t with
  inputState := requantize t.fileBitsPerSample t.requestedBitsPerSample (n.blockBuf.read (t.tapePosition % tapeBlock)),
  tapePosition := t.tapePosition + 1, medium := .native n }

/-- Block `n` with the output sample put in at the tape position. -/
def Tape.recordedBlock (t : Tape) (n : NativeTape) : NativeTape := { n with
  blockBuf := n.blockBuf.write (t.tapePosition % tapeBlock)
    (requantize t.requestedBitsPerSample t.fileBitsPerSample t.outputState),
  blockDirty := true }

/-- The tape after a sample is recorded, its medium then `m`. -/
def Tape.recorded (t : Tape) (m : Medium) : Tape := { t with
  cuePoints := t.cuePoints.filter (fun c => c != t.tapePosition),
  cueDirty := t.cueDirty || decide (t.tapePosition ∈ t.cuePoints),
  tapePosition := t.tapePosition + 1, tapeLength := max t.tapeLength (t.tapePosition + 1), inputState := 0, medium := m }

theorem playTick_of_native {n n' : NativeTape} {failed : Bool} {u : State} (hm : t.medium = .native n)
    (h : bringIn t n (t.tapePosition / tapeBlock) s = (failed, n', u)) :
    playTick t s = endTick failed (t.playedNative n') u := by
  simp only [playTick, readSample, hm, readNative, h]
  rfl

theorem recordTick_of_native {n n' : NativeTape} {failed : Bool} {u : State} (hm : t.medium = .native n)
    (h : bringIn t n (t.tapePosition / tapeBlock) s = (failed, n', u)) :
    recordTick t s = endTick failed (t.recorded (.native (t.recordedBlock n'))) u := by
  have hbring : bringIn (deleteCueAt t.tapePosition t) n (t.tapePosition / tapeBlock) s = (failed, n', u) := by
    rw [deleteCueAt_spec]
    exact h
  simp only [recordTick, writeSample, deleteCueAt_medium, hm, writeNative, hbring]
  rw [deleteCueAt_spec]
  rfl

theorem bringIn_of_resident {n : NativeTape} {b : Nat} (h : n.blockIndex = some b) : bringIn t n b s = (false, n, s) :=
  if_pos h

theorem bringIn_of_other {n : NativeTape} {b : Nat} (h : n.blockIndex ≠ some b) :
    bringIn t n b s = ((writeBack t n s).1,
      { blockBuf := (loadBlock t b (writeBack t n s).2).1, blockIndex := some b, blockDirty := false },
      (loadBlock t b (writeBack t n s).2).2) := if_neg h

theorem recordedBlock_read (t : Tape) (n : NativeTape) (k : Nat) :
    (t.recordedBlock n).blockBuf.read k = if k = t.tapePosition % tapeBlock
      then requantize t.requestedBitsPerSample t.fileBitsPerSample t.outputState else n.blockBuf.read k :=
  Memory.read_write _ _ _ _

/-- Settles O47: the idle tick, and the two ticks within the resident block. -/
theorem tick_spec : Obligations.Tick := by
  refine ⟨fun s t hs hidle => ?_, ?_⟩
  · rw [exec_runOneSample_of_some hs, tick_of_idle hidle]
    rfl
  intro s t n hs hm hmotor hindex r fb x
  have hbring : bringIn t n (t.tapePosition / tapeBlock) s = (false, n, s) := bringIn_of_resident hindex
  refine ⟨fun hrec hplay hpos => ?_, fun hrec hpos => ?_⟩
  · rw [exec_runOneSample_of_some hs, tick_of_plays hmotor hrec hplay hpos, playTick_of_native hm hbring]
    simp only [Tape.playedNative, ← hm]
    rfl
  · refine ⟨(t.recordedBlock n).blockBuf, fun k => recordedBlock_read t n k, ?_⟩
    rw [exec_runOneSample_of_some hs, tick_of_records hmotor hrec hpos, recordTick_of_native hm hbring]
    rfl

end Sys2Proof.Machine

/-! ### Tape: the signal of a LegacyTap tape (44_tape.md R442, R443)

A cursor stands before a list of half-waves; advancing it turns the level over once for each of them that ends on the
way, which is the closed form of the signal. -/

namespace Sys2Proof.Machine

variable {v : TapVersion} {data : List Byte}

/-! #### Half-waves of a stream -/

theorem halfWavesFrom_of_none {bs : List Byte} (h : readPulse bs = none) (fuel : Nat) : halfWavesFrom v fuel bs = [] := by
  cases fuel with
  | zero => rfl
  | succ fuel => rw [halfWavesFrom, h]

theorem halfWavesFrom_of_pulse {bs : List Byte} {len k : Nat} (h : readPulse bs = some (len, k)) (fuel : Nat) :
    halfWavesFrom v (fuel + 1) bs = halfWavesOf v len ++ halfWavesFrom v fuel (bs.drop k) := by
  rw [halfWavesFrom, h]

/-- What is left of a stream after a pulse is shorter. -/
theorem length_drop_of_pulse {bs : List Byte} {len k : Nat} (h : readPulse bs = some (len, k)) :
    (bs.drop k).length < bs.length := by
  obtain ⟨hpos, hk⟩ := readPulse_drop_pos (data := bs) (p := 0) h
  rw [List.length_drop]
  omega

/-- Any fuel that covers the bytes gives the same half-waves. -/
theorem halfWavesFrom_fuel {fuel fuel' : Nat} {bs : List Byte} (h : bs.length ≤ fuel) (h' : bs.length ≤ fuel') :
    halfWavesFrom v fuel bs = halfWavesFrom v fuel' bs := by
  induction fuel generalizing fuel' bs with
  | zero =>
    obtain rfl := List.eq_nil_of_length_eq_zero (Nat.le_zero.1 h)
    rw [halfWavesFrom_of_none rfl, halfWavesFrom_of_none rfl]
  | succ fuel ih =>
    cases hp : readPulse bs with
    | none => rw [halfWavesFrom_of_none hp, halfWavesFrom_of_none hp]
    | some pulse =>
      obtain ⟨len, k⟩ := pulse
      have hlt := length_drop_of_pulse hp
      obtain ⟨fuel', rfl⟩ : ∃ m, fuel' = m + 1 := ⟨fuel' - 1, by omega⟩
      rw [halfWavesFrom_of_pulse hp, halfWavesFrom_of_pulse hp, ih (fuel' := fuel') (by omega) (by omega)]

theorem halfWaves_of_none {bs : List Byte} (h : readPulse bs = none) : halfWaves v bs = [] :=
  halfWavesFrom_of_none h _

theorem halfWaves_of_pulse {bs : List Byte} {len k : Nat} (h : readPulse bs = some (len, k)) :
    halfWaves v bs = halfWavesOf v len ++ halfWaves v (bs.drop k) := by
  have hlt := length_drop_of_pulse h
  obtain ⟨m, hm⟩ : ∃ m, bs.length = m + 1 := ⟨bs.length - 1, by omega⟩
  rw [halfWaves, hm, halfWavesFrom_of_pulse h, halfWaves, halfWavesFrom_fuel (by omega) (Nat.le_refl _)]

/-! #### Half-waves ahead of a cursor -/

/-- The half-waves a cursor has still to begin. -/
def TapCursor.toCome (v : TapVersion) (data : List Byte) (c : TapCursor) : List Nat :=
  c.pendingHalf.toList ++ halfWaves v (data.drop c.dpos)

/-- The half-waves a cursor has still to end, the running one first. -/
def TapCursor.ahead (v : TapVersion) (data : List Byte) (c : TapCursor) : List Nat :=
  c.halfRemaining.toList ++ c.toCome v data

theorem nextHalf_level (v : TapVersion) (data : List Byte) (c : TapCursor) : (nextHalf v data c).level = c.level := by
  unfold nextHalf
  split
  · rfl
  split
  · rfl
  split <;> rfl

/-- Beginning the next half-wave leaves the same ones ahead. -/
theorem ahead_nextHalf (v : TapVersion) (data : List Byte) (c : TapCursor) :
    (nextHalf v data c).ahead v data = c.toCome v data := by
  unfold nextHalf TapCursor.ahead TapCursor.toCome
  cases hpending : c.pendingHalf with
  | some h => rfl
  | none =>
    dsimp only
    cases hpulse : readPulse (data.drop c.dpos) with
    | none => simp [halfWaves_of_none hpulse]
    | some pulse =>
      obtain ⟨len, k⟩ := pulse
      rw [halfWaves_of_pulse hpulse, List.drop_drop]
      cases v <;> simp [halfWavesOf]

/-- A cursor at the end has no half-wave ahead. -/
theorem ahead_nextHalf_of_ended {c : TapCursor} (h : (nextHalf v data c).halfRemaining = none) :
    (nextHalf v data c).ahead v data = [] := by
  rw [ahead_nextHalf]
  unfold nextHalf at h
  unfold TapCursor.toCome
  cases hpending : c.pendingHalf with
  | some r => simp [hpending] at h
  | none =>
    cases hpulse : readPulse (data.drop c.dpos) with
    | none => simp [halfWaves_of_none hpulse]
    | some pulse => cases v <;> simp [hpending, hpulse] at h

/-! #### The level (44_tape.md R442) -/

theorem halfWaveEnds_add (t0 d : Nat) (hs : List Nat) :
    halfWaveEnds (t0 + d) hs = (halfWaveEnds t0 hs).map (fun e => e + d) := by
  induction hs generalizing t0 with
  | nil => rfl
  | cons h hs ih =>
    rw [halfWaveEnds, halfWaveEnds, List.map_cons, ← ih, Nat.add_right_comm]

theorem le_of_mem_halfWaveEnds {t0 e : Nat} {hs : List Nat} (h : e ∈ halfWaveEnds t0 hs) : t0 ≤ e := by
  rw [← Nat.zero_add t0, halfWaveEnds_add, List.mem_map] at h
  obtain ⟨x, -, rfl⟩ := h
  omega

theorem signalLevel_nil (tau : Nat) : signalLevel [] tau = false := rfl

/-- A first half-wave that has not ended leaves the level 0. -/
theorem signalLevel_cons_of_lt {h tau : Nat} (hlt : tau < h) (hs : List Nat) : signalLevel (h :: hs) tau = false := by
  have hnone : (halfWaveEnds 0 (h :: hs)).countP (fun e => decide (e ≤ tau)) = 0 := by
    rw [halfWaveEnds, Nat.zero_add, List.countP_eq_zero]
    intro e he
    obtain rfl | he := List.mem_cons.1 he
    · simpa using hlt
    · have hle := le_of_mem_halfWaveEnds he
      simp only [decide_eq_true_eq]
      omega
  rw [signalLevel, hnone]
  rfl

/-- A first half-wave that has ended turns the level over. -/
theorem signalLevel_cons_of_le {h tau : Nat} (hle : h ≤ tau) (hs : List Nat) :
    signalLevel (h :: hs) tau = !signalLevel hs (tau - h) := by
  have hcount : (halfWaveEnds 0 (h :: hs)).countP (fun e => decide (e ≤ tau))
      = (halfWaveEnds 0 hs).countP (fun e => decide (e ≤ tau - h)) + 1 := by
    rw [halfWaveEnds, List.countP_cons_of_pos (by simpa using hle), halfWaveEnds_add, List.countP_map]
    congr 1
    refine List.countP_congr fun e _ => ?_
    simp only [Function.comp_apply, decide_eq_true_eq]
    omega
  rw [signalLevel, signalLevel, hcount, Bool.eq_iff_iff]
  simp only [beq_iff_eq, Bool.not_eq_true', beq_eq_false_iff_ne]
  omega

/-- Advancing a cursor turns its level over once for each half-wave that ends on the way. -/
theorem advanceFrom_level {fuel adv : Nat} {c : TapCursor} (hfuel : c.halvesLeft data ≤ fuel)
    (hended : c.halfRemaining = none → c.ahead v data = []) :
    (advanceFrom v data fuel adv c).level = (c.level ^^ signalLevel (c.ahead v data) adv) := by
  induction fuel generalizing adv c with
  | zero =>
    cases hc : c.halfRemaining with
    | none => rw [advanceFrom_of_none hc, hended hc, signalLevel_nil, Bool.xor_false]
    | some r =>
      have := halvesLeft_pos (data := data) hc
      omega
  | succ fuel ih =>
    cases hc : c.halfRemaining with
    | none => rw [advanceFrom_of_none hc, hended hc, signalLevel_nil, Bool.xor_false]
    | some r =>
      have hlt := halvesLeft_nextHalf_lt (v := v) (data := data) (!c.level) hc
      have hahead : c.ahead v data = r :: c.toCome v data := by simp [TapCursor.ahead, hc]
      rw [hahead]
      by_cases hle : r ≤ adv
      · rw [advanceFrom_of_le hc hle, ih (by omega) ahead_nextHalf_of_ended, ahead_nextHalf, nextHalf_level,
          signalLevel_cons_of_le hle, Bool.not_xor, Bool.xor_not]
        rfl
      · rw [advanceFrom_of_lt hc (Nat.lt_of_not_le hle), signalLevel_cons_of_lt (Nat.lt_of_not_le hle), Bool.xor_false]

/-- The level at a sample is that of the closed form at its tick. -/
theorem cursorAt_level (v : TapVersion) (data : List Byte) (p : Nat) :
    (cursorAt v data p).level = signalLevel (halfWaves v data) (16 * p) := by
  have hleft : (nextHalf v data cursorStart).halvesLeft data ≤ 2 * data.length + 3 := by
    have hle : _ ≤ 2 * (data.length - 0) + 0 := halvesLeft_nextHalf_le v data cursorStart
    omega
  rw [cursorAt, advance, advanceFrom_level hleft ahead_nextHalf_of_ended, ahead_nextHalf, nextHalf_level]
  exact Bool.false_xor _

theorem levelSample_eq {r : Nat} (h : 1 ≤ r) (level : Bool) :
    levelSample r level = if level then ((1 <<< (r - 1) : Nat) : Byte) else 0 := by
  rw [levelSample, requantize, if_pos h]
  cases level with
  | false => simp
  | true => exact BitVec.eq_of_toNat_eq (by simp [Nat.shiftLeft_eq])

/-- The tape after a sample is played at the cursor. -/
theorem playTick_of_legacyTap {s : State} {t : Tape} {l : LegacyTape} (hm : t.medium = .legacyTap l) :
    playTick t s = s.withTape { t with
      inputState := levelSample t.requestedBitsPerSample l.cursor.level, tapePosition := t.tapePosition + 1,
      medium := .legacyTap { l with cursor := advance l.version l.pulseData c16Downsample l.cursor } } .none := by
  simp only [playTick, readSample, hm, readLegacy]
  rfl

/-- Settles O49: the level of the cursor is the closed form's, and the cursor one sample on is the next position's. -/
theorem legacySignal : Obligations.LegacySignal := by
  intro s t l hs hm hmotor hrec hplay hpos hbits hcursor
  rw [exec_runOneSample_of_some hs, tick_of_plays hmotor hrec hplay hpos, playTick_of_legacyTap hm, hcursor,
    advance_cursorAt, cursorAt_level, levelSample_eq hbits]
  rfl

end Sys2Proof.Machine

/-! ### Tape: the resident block of a Native tape (44_tape.md R432, R433)

What the write-back and the write of the cue slots do to every byte, and what a load reads. -/

namespace Sys2Proof.Machine

variable {s : State} {t : Tape} {n : NativeTape}

/-! #### The write-back -/

/-- The resident block is dirty and holds a sample of the tape. -/
abbrev BlockWrites (t : Tape) (n : NativeTape) : Prop :=
  n.blockDirty = true ∧ n.blockIndex.isSome = true ∧ 0 < blockCount t (n.blockIndex.getD 0)

/-- The place of the resident block in the store. -/
def blockPlace (t : Tape) (n : NativeTape) : Nat := blockOffset t.fileBitsPerSample (n.blockIndex.getD 0)

/-- The bytes of the resident block, its samples below the length packed. -/
def blockBytes (p : SamplePacking) (t : Tape) (n : NativeTape) : List Byte :=
  packSamples p t.fileBitsPerSample (n.blockBuf.readBytes 0 (blockCount t (n.blockIndex.getD 0)))

/-- How many bytes the resident block takes. -/
def blockSize (t : Tape) (n : NativeTape) : Nat :=
  (blockCount t (n.blockIndex.getD 0) * t.fileBitsPerSample + 7) / 8

theorem blockBytes_length (p : SamplePacking) (t : Tape) (n : NativeTape) :
    (blockBytes p t n).length = blockSize t n := by
  rw [blockBytes, packSamples_eq, List.length_map, List.length_range, Memory.readBytes_length, blockSize]

theorem le_blockPlace (t : Tape) (n : NativeTape) : 4096 ≤ blockPlace t n := Nat.le_add_right _ _

theorem writeBack_of_not_writes (h : ¬ BlockWrites t n) : writeBack t n s = (false, s) := by
  unfold writeBack
  split
  · next c hc =>
    split
    · next hdirty =>
      have hcount : blockCount t c = 0 := by
        by_contra hpos
        exact h ⟨hdirty, by simp [hc], by simpa [hc] using Nat.pos_of_ne_zero hpos⟩
      rw [writeBlock, if_pos hcount]
    · rfl
  · rfl

theorem writeBack_of_writes (h : BlockWrites t n) :
    writeBack t n s = memWrite t.store (blockPlace t n) (blockBytes s.params.samplePacking t n) s := by
  obtain ⟨hdirty, hsome, hcount⟩ := h
  obtain ⟨c, hc⟩ := Option.isSome_iff_exists.1 hsome
  have hne : blockCount t c ≠ 0 := by simpa [hc] using Nat.ne_of_gt hcount
  simp only [writeBack, hc, if_pos hdirty, writeBlock, if_neg hne, blockPlace, blockBytes, Option.getD_some]

/-- The write-back ended with `failed` and left state `w`: it took a draw when there was something to write, and a good one
put the packed samples at their place. -/
structure WroteBack (t : Tape) (n : NativeTape) (s : State) (failed : Bool) (w : State) : Prop where
  failed_iff : failed = true ↔ BlockWrites t n ∧ s.ioFails = true
  draw : BlockWrites t n → w.ioFails = s.ioNext.ioFails
  still : ¬ BlockWrites t n → w = s
  stores : ¬ BlockWrites t n ∨ s.ioFails = true → w.stores = s.stores
  others : ∀ x, x ≠ t.store → w.store x = s.store x
  bytes : ∀ x a, w.byteAt x a =
    if x = t.store ∧ BlockWrites t n ∧ s.ioFails = false ∧ blockPlace t n ≤ a ∧ a < blockPlace t n + blockSize t n
    then (blockBytes s.params.samplePacking t n).getD (a - blockPlace t n) 0 else s.byteAt x a

theorem writeBack_spec (t : Tape) (n : NativeTape) (s : State) :
    ∃ failed w, writeBack t n s = (failed, w) ∧ WroteBack t n s failed w := by
  by_cases hwrites : BlockWrites t n
  · rw [writeBack_of_writes hwrites]
    obtain ⟨hdraw, hw⟩ | ⟨hdraw, hw⟩ :=
      memWrite_cases t.store (blockPlace t n) (blockBytes s.params.samplePacking t n) s
    · refine ⟨_, _, hw, iff_of_true rfl ⟨hwrites, hdraw⟩, fun _ => rfl, fun h => absurd hwrites h, fun _ => s.ioNext_stores,
        fun x _ => s.ioNext_store x, fun x a => ?_⟩
      rw [if_neg (by simp [hdraw]), State.byteAt_of_stores_eq s.ioNext_stores]
    · refine ⟨_, _, hw, by simp [hdraw], fun _ => rfl, fun h => absurd hwrites h, fun h => ?_,
        fun x hx => State.wrote_store_of_ne hx _ _, fun x a => ?_⟩
      · simp [hwrites, hdraw] at h
      · have hbyte := s.wrote_byteAt t.store (blockPlace t n) (blockBytes s.params.samplePacking t n) x a
        rw [blockBytes_length] at hbyte
        exact hbyte.trans (if_congr ⟨fun ⟨hx, hlo, hhi⟩ => ⟨hx, hwrites, hdraw, hlo, hhi⟩,
          fun ⟨hx, _, _, hlo, hhi⟩ => ⟨hx, hlo, hhi⟩⟩ rfl rfl)
  · refine ⟨_, _, writeBack_of_not_writes hwrites, by simp [hwrites], fun h => absurd h hwrites, fun _ => rfl,
      fun _ => rfl, fun _ _ => rfl, fun x a => ?_⟩
    rw [if_neg fun ⟨_, h, _⟩ => hwrites h]

/-! #### The cue slots (30_encoding.md R160, R161) -/

/-- The cue points changed and the tape may be written. -/
abbrev CuesChanged (t : Tape) : Prop := t.cueDirty = true ∧ t.mode ≠ .readOnly

theorem writeCues_of_changed (h : CuesChanged t) : writeCues t s = memWrite t.store 16 (slotBytes t.cuePoints) s := if_pos h

theorem writeCues_of_not_changed (h : ¬ CuesChanged t) : writeCues t s = (false, s) := if_neg h

theorem getD_slotBytes {cues : List Nat} (hlen : cues.length ≤ 1019) {k : Nat} (hk : k < 4080) :
    (slotBytes cues).getD k 0 = (cues.flatMap (beBytes 4)).getD k 0xFF := by
  rw [slotBytes_eq]
  refine getD_append_replicate _ _ _ _ ?_
  have hlength := slotBytes_length (cues := cues) (by omega)
  rw [slotBytes_eq, List.length_append, List.length_replicate] at hlength
  omega

/-- A good write of the cue slots, or none to make. -/
theorem writeCues_of_good (hlen : t.cuePoints.length ≤ 1019) (hgood : CuesChanged t → s.ioFails = false) :
    ∃ u, writeCues t s = (false, u) ∧ ∀ x a, u.byteAt x a =
      if x = t.store ∧ CuesChanged t ∧ 16 ≤ a ∧ a < 4096
      then (t.cuePoints.flatMap (beBytes 4)).getD (a - 16) 0xFF else s.byteAt x a := by
  by_cases hcues : CuesChanged t
  · refine ⟨_, (writeCues_of_changed hcues).trans (memWrite_of_good (hgood hcues) _ _ _), fun x a => ?_⟩
    rw [State.wrote_byteAt, slotBytes_length (by omega)]
    split
    · next h =>
      obtain ⟨hx, hlo, hhi⟩ := h
      rw [if_pos ⟨hx, hcues, hlo, hhi⟩, getD_slotBytes hlen (by omega)]
    · next h => rw [if_neg fun ⟨hx, _, hlo, hhi⟩ => h ⟨hx, hlo, hhi⟩]
  · refine ⟨s, writeCues_of_not_changed hcues, fun x a => ?_⟩
    rw [if_neg fun ⟨_, h, _⟩ => hcues h]

/-! #### The flush of a Native tape (44_tape.md R433) -/

theorem flushInto_eq_endTick (t : Tape) (s : State) :
    flushInto t s = endTick (flushMedium t s).1 (flushMedium t s).2.1 (flushMedium t s).2.2 := rfl

theorem endTick_result (failed : Bool) (t : Tape) (s : State) :
    (endTick failed t s).result = if failed then .hostIoError .write else .none := by
  cases failed <;> rfl

theorem endTick_stores (failed : Bool) (t : Tape) (s : State) : (endTick failed t s).stores = s.stores := by
  cases failed <;> rfl

/-- A Native tape flushed: its block clean, its cue flag cleared where it may be written. -/
def Tape.flushedNative (t : Tape) (n : NativeTape) : Tape := { t with
  cueDirty := if t.mode = .readOnly then t.cueDirty else false, medium := .native { n with blockDirty := false } }

theorem flushInto_of_native (hm : t.medium = .native n) {failed failed' : Bool} {u u' : State}
    (hblock : writeBack t n s = (failed, u)) (hcues : writeCues t u = (failed', u')) :
    flushInto t s = endTick (failed || failed') (t.flushedNative n) u' := by
  have hflush : flushMedium t s = flushNative t n s := by rw [flushMedium, hm]
  rw [flushInto_eq_endTick, hflush, flushNative_eq, hblock, hcues]
  rfl

theorem flushInto_native_tape (hm : t.medium = .native n) : (flushInto t s).tape = some (t.flushedNative n) := by
  rw [flushInto_of_native hm (Prod.eta (writeBack t n s)).symm (Prod.eta (writeCues t _)).symm, endTick_tape]

/-- Every draw good: no outcome, the block and the cue slots at their places. -/
theorem flushInto_native_of_good (hm : t.medium = .native n) (hlen : t.cuePoints.length ≤ 1019)
    (htwo : BlockWrites t n ∧ CuesChanged t → s.noFailure 2) (hone : s.noFailure 1) :
    (flushInto t s).result = .none ∧ ∀ x a, (flushInto t s).byteAt x a =
      if x = t.store ∧ BlockWrites t n ∧ blockPlace t n ≤ a ∧ a < blockPlace t n + blockSize t n
      then (blockBytes s.params.samplePacking t n).getD (a - blockPlace t n) 0
      else if x = t.store ∧ CuesChanged t ∧ 16 ≤ a ∧ a < 4096
      then (t.cuePoints.flatMap (beBytes 4)).getD (a - 16) 0xFF
      else s.byteAt x a := by
  have hgood : s.ioFails = false := State.noFailure_ioFails hone
  obtain ⟨failed, w, hblock, hw⟩ := writeBack_spec t n s
  have hfailed : failed = false := by
    rw [← Bool.not_eq_true, hw.failed_iff]
    simp [hgood]
  have hdraw : CuesChanged t → w.ioFails = false := by
    intro hcues
    by_cases hwrites : BlockWrites t n
    · rw [hw.draw hwrites]
      exact State.noFailure_ioFails (State.noFailure_ioNext (htwo ⟨hwrites, hcues⟩))
    · rw [hw.still hwrites]
      exact hgood
  obtain ⟨u, hcues, hbytes⟩ := writeCues_of_good hlen hdraw
  rw [flushInto_of_native hm hblock hcues, hfailed]
  refine ⟨endTick_result _ _ _, fun x a => ?_⟩
  have hplace := le_blockPlace t n
  rw [State.byteAt_of_stores_eq (endTick_stores _ _ _), hbytes, hw.bytes]
  simp only [hgood, true_and]
  split
  · next hslot => rw [if_neg (by omega)]
  · rfl

theorem flushInto_native_of_clean (hm : t.medium = .native n) (hblock : ¬ BlockWrites t n) (hcues : ¬ CuesChanged t) :
    flushInto t s = s.withTape (t.flushedNative n) .none :=
  flushInto_of_native hm (writeBack_of_not_writes hblock) (writeCues_of_not_changed hcues)

theorem flushInto_native_of_block_fails (hm : t.medium = .native n) (hfails : s.nextFails) (hblock : BlockWrites t n) :
    (flushInto t s).result = .hostIoError .write ∧ (¬ CuesChanged t → (flushInto t s).stores = s.stores) := by
  have hw : writeBack t n s = (true, s.ioNext) := (writeBack_of_writes hblock).trans (memWrite_of_fails hfails _ _ _)
  refine ⟨?_, fun hcues => ?_⟩
  · rw [flushInto_of_native hm hw (Prod.eta (writeCues t s.ioNext)).symm, endTick_result]
    rfl
  · rw [flushInto_of_native hm hw (writeCues_of_not_changed hcues), endTick_stores, State.ioNext_stores]

theorem flushInto_native_of_cues_fail (hm : t.medium = .native n) (hfails : s.nextFails) (hblock : ¬ BlockWrites t n)
    (hcues : CuesChanged t) :
    (flushInto t s).result = .hostIoError .write ∧ (flushInto t s).stores = s.stores := by
  rw [flushInto_of_native hm (writeBack_of_not_writes hblock)
    ((writeCues_of_changed hcues).trans (memWrite_of_fails hfails _ _ _)), endTick_result, endTick_stores]
  exact ⟨rfl, s.ioNext_stores⟩

theorem flushInto_native_of_second_fails (hm : t.medium = .native n) (hblock : BlockWrites t n) (hcues : CuesChanged t)
    (hgood : s.ioFails = false) (hfails : s.ioNext.nextFails) : (flushInto t s).result = .hostIoError .write := by
  have hw := (writeBack_of_writes (s := s) hblock).trans (memWrite_of_good hgood _ _ _)
  have hc := (writeCues_of_changed (s := s.wrote t.store (blockPlace t n) (blockBytes s.params.samplePacking t n))
    hcues).trans (memWrite_of_fails (s := s.wrote t.store (blockPlace t n) (blockBytes s.params.samplePacking t n))
      hfails _ _ _)
  rw [flushInto_of_native hm hw hc, endTick_result]
  rfl

end Sys2Proof.Machine

/-! ### Tape: the resident frames of a SoundFile tape (44_tape.md R452) -/

namespace Sys2Proof.Machine

variable {s : State} {t : Tape} {f : SoundTape}

/-! #### Frames cut, filled and laid over others -/

theorem fitFrames_getD (k n : Nat) (xs : List (List Rat)) {j : Nat} (hj : j < n) :
    (fitFrames k n xs).getD j [] = if j < xs.length then xs.getD j [] else zeroFrame k := by
  unfold fitFrames
  split
  · next h =>
    rw [List.getD_append _ _ _ _ (by rw [List.length_take]; omega), List.getD_eq_getElem?_getD,
      List.getElem?_take_of_lt hj, ← List.getD_eq_getElem?_getD]
  · next h =>
    rw [List.getD_append_right _ _ _ _ (by rw [List.length_take]; omega), List.getD_replicate]
    rw [List.length_take]
    omega

theorem overlayFrames_length (k i : Nat) (new old : List (List Rat)) :
    (overlayFrames k i new old).length = max old.length (i + new.length) := by
  simp only [overlayFrames, List.length_append, fitFrames_length, List.length_drop]
  omega

theorem overlayFrames_getD (k i : Nat) (new old : List (List Rat)) {j : Nat} (hj : j < max old.length (i + new.length)) :
    (overlayFrames k i new old).getD j [] =
      if i ≤ j ∧ j < i + new.length then new.getD (j - i) []
      else if j < old.length then old.getD j [] else zeroFrame k := by
  unfold overlayFrames
  by_cases hbelow : j < i
  · have hnot : ¬ (i ≤ j ∧ j < i + new.length) := by omega
    rw [List.getD_append _ _ _ _ (by rw [List.length_append, fitFrames_length]; omega),
      List.getD_append _ _ _ _ (by rw [fitFrames_length]; omega), fitFrames_getD _ _ _ hbelow, if_neg hnot]
  by_cases hwithin : j < i + new.length
  · rw [List.getD_append _ _ _ _ (by rw [List.length_append, fitFrames_length]; omega),
      List.getD_append_right _ _ _ _ (by rw [fitFrames_length]; omega), fitFrames_length, if_pos (by omega)]
  · have hold : j < old.length := by omega
    have hplace : i + new.length + (j - (i + new.length)) = j := by omega
    rw [List.getD_append_right _ _ _ _ (by rw [List.length_append, fitFrames_length]; omega), List.length_append,
      fitFrames_length, if_neg (by omega), if_pos hold, List.getD_eq_getElem?_getD, List.getElem?_drop, hplace,
      List.getD_eq_getElem?_getD]

/-! #### The write-back -/

/-- The resident frame block is dirty and holds a frame of the tape. -/
abbrev FrameWrites (t : Tape) (f : SoundTape) : Prop :=
  f.frameBlockDirty = true ∧ f.frameBlockIndex.isSome = true ∧ 0 < frameCount t (f.frameBlockIndex.getD 0)

/-- The container with the resident frames below the length laid over the frames `old`. -/
def soundWith (t : Tape) (f : SoundTape) (old : List (List Rat)) : Sound where
  nChannels := f.nChannels
  sampleRate := t.sampleRate
  frames := overlayFrames f.nChannels (soundBlock * f.frameBlockIndex.getD 0)
    (f.frameBuf.take (frameCount t (f.frameBlockIndex.getD 0))) old

theorem writeBackFrames_of_not_writes (h : ¬ FrameWrites t f) : writeBackFrames t f s = (false, s) := by
  unfold writeBackFrames
  split
  · next c hc =>
    split
    · next hdirty =>
      have hcount : frameCount t c = 0 := by
        by_contra hpos
        exact h ⟨hdirty, by simp [hc], by simpa [hc] using Nat.pos_of_ne_zero hpos⟩
      rw [writeFrames, if_pos hcount]
    · rfl
  · rfl

theorem writeBackFrames_of_writes (h : FrameWrites t f) :
    writeBackFrames t f s = putSound t.store (soundWith t f (framesOf (s.store t.store))) s := by
  obtain ⟨hdirty, hsome, hcount⟩ := h
  obtain ⟨c, hc⟩ := Option.isSome_iff_exists.1 hsome
  have hne : frameCount t c ≠ 0 := by simpa [hc] using Nat.ne_of_gt hcount
  simp only [writeBackFrames, hc, if_pos hdirty, writeFrames, if_neg hne, soundWith, Option.getD_some]

theorem writeBackFrames_of_fails (h : FrameWrites t f) (hfails : s.ioFails = true) :
    writeBackFrames t f s = (true, s.ioNext) := (writeBackFrames_of_writes h).trans (if_pos hfails)

theorem writeBackFrames_of_good (h : FrameWrites t f) (hgood : s.ioFails = false) :
    writeBackFrames t f s
      = (false, s.ioNext.putStore t.store (.container (soundWith t f (framesOf (s.store t.store))))) :=
  (writeBackFrames_of_writes h).trans (if_neg (by rw [hgood]; exact Bool.false_ne_true))

/-! #### The flush -/

/-- A SoundFile tape flushed: its block clean. -/
def Tape.flushedSound (t : Tape) (f : SoundTape) : Tape := { t with medium := .soundFile { f with frameBlockDirty := false } }

theorem flushInto_of_soundFile (hm : t.medium = .soundFile f) {failed : Bool} {u : State}
    (h : writeBackFrames t f s = (failed, u)) : flushInto t s = endTick failed (t.flushedSound f) u := by
  have hflush : flushMedium t s = flushSound t f s := by rw [flushMedium, hm]
  rw [flushInto_eq_endTick, hflush, flushSound, h]
  rfl

theorem flushInto_of_legacyTap {l : LegacyTape} (hm : t.medium = .legacyTap l) : flushInto t s = s.withTape t .none := by
  have hflush : flushMedium t s = (false, t, s) := by rw [flushMedium, hm]
  rw [flushInto_eq_endTick, hflush]
  rfl

/-- Settles O46: what each format's flush writes, and what it leaves where a write fails. -/
theorem flushTape : Obligations.FlushTape := by
  refine ⟨fun s t n hm hlen => ?_, fun s t l hm => flushInto_of_legacyTap hm, fun s t f hm => ?_⟩
  · intro t' cues off count block
    have hkeeps := flushInto_keepsOthers t s
    refine ⟨flushInto_native_tape hm, hkeeps.tbm (by decide), hkeeps.fdc (by decide), fun htwo hone => ?_,
      flushInto_native_of_clean hm, fun hfails h => ?_, fun hfails h => ?_, fun hblock hcues hone hfails =>
        flushInto_native_of_second_fails hm hblock hcues (State.noFailure_ioFails hone) hfails⟩
    · obtain ⟨hresult, hbytes⟩ := flushInto_native_of_good hm hlen htwo hone
      refine ⟨hresult, fun x a => (hbytes x a).trans (if_congr ?_ rfl rfl)⟩
      constructor
      · rintro ⟨hx, ⟨hdirty, hsome, -⟩, hlo, hhi⟩
        exact ⟨hx, hdirty, hsome, hlo, hhi⟩
      · rintro ⟨hx, hdirty, hsome, hlo, hhi⟩
        refine ⟨hx, ⟨hdirty, hsome, Nat.pos_of_ne_zero fun hzero => ?_⟩, hlo, hhi⟩
        have hnone : count = 0 := hzero
        rw [hnone] at hhi
        omega
    · by_cases hblock : BlockWrites t n
      · obtain ⟨hresult, -⟩ := flushInto_native_of_block_fails hm hfails hblock
        exact hresult
      · obtain ⟨hresult, -⟩ := flushInto_native_of_cues_fail hm hfails hblock (h.resolve_left hblock)
        exact hresult
    · by_cases hblock : BlockWrites t n
      · obtain ⟨-, hstores⟩ := flushInto_native_of_block_fails hm hfails hblock
        exact hstores fun hcues => h ⟨hblock, hcues⟩
      by_cases hcues : CuesChanged t
      · obtain ⟨-, hstores⟩ := flushInto_native_of_cues_fail hm hfails hblock hcues
        exact hstores
      · rw [flushInto_native_of_clean hm hblock hcues]
        rfl
  · intro t' lo count writes old
    have hkeeps := flushInto_keepsOthers t s
    refine ⟨?_, hkeeps.tbm (by decide), hkeeps.fdc (by decide), fun hclean =>
      flushInto_of_soundFile hm (writeBackFrames_of_not_writes hclean), fun hwrites hfails => ?_,
      fun hwrites hgood hframes => ?_⟩
    · rw [flushInto_of_soundFile hm (Prod.eta (writeBackFrames t f s)).symm, endTick_tape]
      rfl
    · rw [flushInto_of_soundFile hm (writeBackFrames_of_fails hwrites hfails)]
      exact ⟨rfl, s.ioNext_stores⟩
    · rw [flushInto_of_soundFile hm (writeBackFrames_of_good hwrites (State.noFailure_ioFails hgood))]
      have hnew : (f.frameBuf.take count).length = count := by
        rw [List.length_take, hframes]
        omega
      have hlength : (soundWith t f old).frames.length = max old.length (lo + count) := by
        refine (overlayFrames_length _ _ _ _).trans ?_
        exact congrArg (fun m => max old.length (lo + m)) hnew
      refine ⟨(soundWith t f old).frames, rfl, ?_, fun x hx => ?_, hlength, fun k hk => ?_⟩
      · exact (s.ioNext.putStore_store t.store t.store _).trans (if_pos rfl)
      · exact (s.ioNext.putStore_store t.store x _).trans ((if_neg hx).trans (s.ioNext_store x))
      · refine (overlayFrames_getD f.nChannels lo (f.frameBuf.take count) old (by rw [hnew]; omega)).trans ?_
        rw [hnew]
        split
        · next hin =>
          rw [List.getD_eq_getElem?_getD, List.getElem?_take_of_lt (by omega), ← List.getD_eq_getElem?_getD]
        · rfl

end Sys2Proof.Machine

/-! ### Tape: a Native block brought in (44_tape.md R432)

A load reads each sample of the block from its own place in the store, so a tick into another block is the write-back, the
load and the tick within the new block. -/

namespace Sys2Proof.Machine

variable {s : State} {t : Tape} {n : NativeTape}

/-! #### Where a sample is packed (20_memory.md R90) -/

/-- Sample `j * (8 / b) + k` stands in byte `j`, where sample `k` of a byte does. -/
theorem slot_of_sample {b : Nat} (h : validBits b = true) (j : Nat) {k : Nat} (hk : k < 8 / b) :
    (j * (8 / b) + k) * b / 8 = j ∧ (j * (8 / b) + k) * b % 8 = k * b % 8 := by
  obtain rfl | rfl | rfl | rfl := validBits_cases h <;> constructor <;> omega

theorem unpackSample_congr {p : SamplePacking} {b i j : Nat} (h : i * b % 8 = j * b % 8) (v : Byte) :
    unpackSample p b i v = unpackSample p b j v := by
  cases p <;> simp only [unpackSample, sampleShift, h]

theorem unpackBytes_readBytes {b : Nat} (h : validBits b = true) (p : SamplePacking) (m : Memory) (off n : Nat) :
    unpackBytes p b (m.readBytes off n)
      = (List.range (n * (8 / b))).map fun i => unpackSample p b i (m.read (off + i * b / 8)) := by
  rw [Memory.readBytes_eq, unpackBytes, List.flatMap_map, ← flatMap_range_mul]
  refine List.flatMap_congr fun j _ => List.map_congr_left fun k hk => ?_
  obtain ⟨hbyte, hslot⟩ := slot_of_sample h j (List.mem_range.1 hk)
  rw [hbyte, unpackSample_congr hslot]

theorem getD_take_map_range {α : Type} (f : Nat → α) (m c i : Nat) (d : α) :
    (((List.range m).map f).take c).getD i d = if i < c ∧ i < m then f i else d := by
  rw [← List.map_take, List.take_range, List.getD_eq_getElem?_getD, List.getElem?_map]
  by_cases hi : i < min c m
  · rw [List.getElem?_range hi, if_pos (by omega)]
    rfl
  · rw [List.getElem?_eq_none (by rw [List.length_range]; omega), if_neg (by omega)]
    rfl

/-! #### The load -/

theorem loadBlock_stores (t : Tape) (b : Nat) (s : State) : (loadBlock t b s).2.stores = s.stores := by
  unfold loadBlock
  dsimp only
  split
  · rfl
  have hread := memRead_stores t.store (blockOffset t.fileBitsPerSample b)
    (min ((blockCount t b * t.fileBitsPerSample + 7) / 8)
      ((s.store t.store).length - blockOffset t.fileBitsPerSample b)) s
  split
  · next h => rwa [h] at hread
  · next h => rwa [h] at hread

/-- Sample `k` of a block as a load brings it in: below the length and within the store it is the one packed there. -/
theorem loadBlock_read (hbits : validBits t.fileBitsPerSample = true) (b k : Nat) (s : State) :
    (loadBlock t b s).1.read k =
      if s.ioFails = false ∧ k < blockCount t b
          ∧ blockOffset t.fileBitsPerSample b + k * t.fileBitsPerSample / 8 < s.lengthOf t.store
      then unpackSample s.params.samplePacking t.fileBitsPerSample k
        (s.byteAt t.store (blockOffset t.fileBitsPerSample b + k * t.fileBitsPerSample / 8))
      else 0 := by
  have hsize : ∀ m, k < blockCount t b → (k < m * (8 / t.fileBitsPerSample) ↔ k * t.fileBitsPerSample / 8 < m)
      ∧ k * t.fileBitsPerSample / 8 < (blockCount t b * t.fileBitsPerSample + 7) / 8 := by
    intro m hk
    obtain h | h | h | h := validBits_cases hbits <;> rw [h] <;> constructor <;> omega
  unfold loadBlock
  dsimp only
  generalize hoff : blockOffset t.fileBitsPerSample b = off
  generalize hcount : min ((blockCount t b * t.fileBitsPerSample + 7) / 8) ((s.store t.store).length - off) = m
  have hlength : s.lengthOf t.store = (s.store t.store).length := rfl
  by_cases hzero : m = 0
  · rw [if_pos hzero, Memory.read_nil, if_neg]
    rintro ⟨-, hk, hlen⟩
    obtain ⟨-, hlt⟩ := hsize m hk
    omega
  rw [if_neg hzero]
  obtain ⟨-, hshort⟩ | ⟨-, hfails, hread⟩ | ⟨-, hgood, hread⟩ := memRead_cases t.store off m s
  · omega
  · rw [hread, Memory.read_nil, if_neg (by simp [hfails])]
  · rw [hread]
    dsimp only
    rw [Memory.read_ofBytes, unpackBytes_readBytes hbits, getD_take_map_range, State.ioNext_params]
    refine if_congr ?_ rfl rfl
    rw [hgood]
    simp only [true_and]
    refine and_congr_right fun hk => ?_
    obtain ⟨hroom, hlt⟩ := hsize m hk
    rw [hroom]
    omega

/-- Sample `q` of the tape as the store of state `u` holds it. -/
def storedSample (t : Tape) (u : State) (q : Nat) : Byte :=
  if q < t.tapeLength ∧ 4096 + q * t.fileBitsPerSample / 8 < u.lengthOf t.store
  then unpackSample u.params.samplePacking t.fileBitsPerSample q
    (u.byteAt t.store (4096 + q * t.fileBitsPerSample / 8))
  else 0

/-- A loaded block holds the stored samples of the tape, and 0 where the read fails. -/
theorem loadBlock_read_stored (hbits : validBits t.fileBitsPerSample = true) (b : Nat) {k : Nat} (hk : k < 4096) (s : State) :
    (loadBlock t b s).1.read k = if s.ioFails then 0 else storedSample t s (4096 * b + k) := by
  have hcount : k < blockCount t b ↔ 4096 * b + k < t.tapeLength := by
    unfold blockCount tapeBlock
    omega
  have hplace : blockOffset t.fileBitsPerSample b + k * t.fileBitsPerSample / 8
      = 4096 + (4096 * b + k) * t.fileBitsPerSample / 8 := by
    unfold blockOffset tapeBlock
    obtain h | h | h | h := validBits_cases hbits <;> rw [h] <;> omega
  have hslot : k * t.fileBitsPerSample % 8 = (4096 * b + k) * t.fileBitsPerSample % 8 := by
    obtain h | h | h | h := validBits_cases hbits <;> rw [h] <;> omega
  rw [loadBlock_read hbits, hplace, unpackSample_congr hslot]
  simp only [hcount]
  cases s.ioFails with
  | true => rw [if_neg (by simp), if_pos rfl]
  | false => simp only [true_and, storedSample, Bool.false_eq_true, if_false]

/-! #### The tick into another block -/

/-- The block a tick into another block leaves resident, before the tick's own sample. -/
def crossedBlock (t : Tape) (w : State) : NativeTape where
  blockBuf := (loadBlock t (t.tapePosition / tapeBlock) w).1
  blockIndex := some (t.tapePosition / tapeBlock)
  blockDirty := false

/-- The end of a tick into another block with tape `x`: the write-back's outcome, the files it left, nothing else. -/
theorem endTick_crossed {failed : Bool} {w : State} (hback : writeBack t n s = (failed, w)) (x : Tape) (b : Nat) :
    KeepsOthers .tape s (endTick failed x (loadBlock t b w).2)
      ∧ (endTick failed x (loadBlock t b w).2).stores = w.stores := by
  have hkeeps := writeBack_keepsBlocks t n s
  rw [hback] at hkeeps
  refine ⟨?_, (endTick_stores _ _ _).trans (loadBlock_stores t b w)⟩
  exact ((hkeeps.trans (loadBlock_keepsBlocks t b w)).keepsOthers .tape).trans (endTick_keepsOthers _ _ _)

theorem bringIn_of_writeBack {failed : Bool} {w : State} (h : n.blockIndex ≠ some (t.tapePosition / tapeBlock))
    (hback : writeBack t n s = (failed, w)) :
    bringIn t n (t.tapePosition / tapeBlock) s
      = (failed, crossedBlock t w, (loadBlock t (t.tapePosition / tapeBlock) w).2) := by
  rw [bringIn_of_other h, hback]
  rfl

section

variable {failed : Bool} {w : State}

theorem WroteBack.result (hw : WroteBack t n s failed w) (x : Tape) (u : State) :
    (endTick failed x u).result
      = if BlockWrites t n ∧ s.ioFails = true then .hostIoError .write else .none := by
  rw [endTick_result]
  exact if_congr hw.failed_iff rfl rfl

/-- The load's draw is the one after the write's, if one was made. -/
theorem WroteBack.loadDraw (hw : WroteBack t n s failed w) :
    w.ioFails = if BlockWrites t n then s.ioNext.ioFails else s.ioFails := by
  split
  · next hwrites => exact hw.draw hwrites
  · next hstill => rw [hw.still hstill]

/-- The bytes of the tape's own store in a state with the files of `w`. -/
theorem WroteBack.byteAt_store (hw : WroteBack t n s failed w) {u : State} (hu : u.stores = w.stores) (a : Nat) :
    u.byteAt t.store a =
      if BlockWrites t n ∧ ¬ (BlockWrites t n ∧ s.ioFails = true)
        ∧ blockPlace t n ≤ a ∧ a < blockPlace t n + blockSize t n
      then (blockBytes s.params.samplePacking t n).getD (a - blockPlace t n) 0 else s.byteAt t.store a := by
  rw [State.byteAt_of_stores_eq hu, hw.bytes]
  refine if_congr ?_ rfl rfl
  constructor
  · rintro ⟨-, hwrites, hgood, hlo, hhi⟩
    exact ⟨hwrites, fun ⟨_, hfails⟩ => State.not_nextFails_of_ioFails hgood hfails, hlo, hhi⟩
  · rintro ⟨hwrites, hgood, hlo, hhi⟩
    exact ⟨rfl, hwrites, Bool.eq_false_iff.2 fun hfails => hgood ⟨hwrites, hfails⟩, hlo, hhi⟩

/-- A sample of the new block, read off any state with the files the load saw. -/
theorem crossedBlock_read (hbits : validBits t.fileBitsPerSample = true) {u : State} (hu : u.stores = w.stores)
    {k : Nat} (hk : k < 4096) :
    (crossedBlock t w).blockBuf.read k =
      if w.ioFails = false ∧ 4096 * (t.tapePosition / 4096) + k < t.tapeLength
        ∧ 4096 + (4096 * (t.tapePosition / 4096) + k) * t.fileBitsPerSample / 8 < u.lengthOf t.store
      then unpackSample w.params.samplePacking t.fileBitsPerSample (4096 * (t.tapePosition / 4096) + k)
        (u.byteAt t.store (4096 + (4096 * (t.tapePosition / 4096) + k) * t.fileBitsPerSample / 8))
      else 0 := by
  have hlen : u.lengthOf t.store = w.lengthOf t.store := congrArg Store.length (State.store_of_stores_eq hu t.store)
  rw [hlen, State.byteAt_of_stores_eq hu]
  refine (loadBlock_read_stored hbits _ hk w).trans ?_
  unfold storedSample tapeBlock
  cases w.ioFails with
  | true => simp
  | false => simp only [Bool.false_eq_true, if_false, true_and]

end

/-- Settles O48: the write-back by its draw, the load by the next one, and the tick within the new block. -/
theorem tickBlockCrossing : Obligations.TickBlockCrossing := by
  intro s t n hs hm hmotor hbits hother r fb pos old count off writes writeFails loadFails loaded written played recorded
    plays records hkey
  obtain ⟨failed, w, hback, hw⟩ := writeBack_spec t n s
  have hbring := bringIn_of_writeBack hother hback
  have hblock := writeBack_keepsBlocks t n s
  rw [hback] at hblock
  have hwritten : ∀ u : State, u.stores = w.stores → written u := fun u hu =>
    ⟨fun h => hu.trans (hw.stores (h.imp_right fun ⟨_, hfails⟩ => hfails)),
      fun x hx => (State.store_of_stores_eq hu x).trans (hw.others x hx), hw.byteAt_store hu⟩
  have hread : ∀ u : State, u.stores = w.stores → ∀ k, k < 4096 →
      (crossedBlock t w).blockBuf.read k = loaded u (4096 * (pos / 4096) + k) := by
    intro u hu k hk
    rw [crossedBlock_read hbits hu hk, hw.loadDraw, hblock.params]
    rfl
  obtain ⟨hrec, hplay, hpos⟩ | ⟨hrec, hpos⟩ := hkey
  · obtain ⟨hkeeps, hstores⟩ := endTick_crossed hback (t.playedNative (crossedBlock t w)) (pos / tapeBlock)
    refine ⟨_, (crossedBlock t w).blockBuf, ?_, hw.result (t.playedNative (crossedBlock t w)) _, hkeeps.tbm (by decide),
      hkeeps.fdc (by decide), hwritten _ hstores, fun k hk _ => hread _ hstores k hk, fun _ => ?_,
      fun ⟨hon, _⟩ => absurd (hon.symm.trans hrec) (by decide)⟩
    · rw [exec_runOneSample_of_some hs, tick_of_plays hmotor hrec hplay hpos, playTick_of_native hm hbring]
    · have hsample := hread _ hstores (pos % 4096) (Nat.mod_lt _ (by decide))
      rw [Nat.div_add_mod] at hsample
      rw [endTick_tape, ← hsample]
      rfl
  · have hnotPlays : ¬ plays := fun ⟨hoff, _⟩ => absurd (hoff.symm.trans hrec) (by decide)
    obtain ⟨hkeeps, hstores⟩ :=
      endTick_crossed hback (t.recorded (.native (t.recordedBlock (crossedBlock t w)))) (pos / tapeBlock)
    refine ⟨_, (t.recordedBlock (crossedBlock t w)).blockBuf, ?_,
      hw.result (t.recorded (.native (t.recordedBlock (crossedBlock t w)))) _, hkeeps.tbm (by decide),
      hkeeps.fdc (by decide), hwritten _ hstores, fun k hk h => ?_, fun h => absurd h hnotPlays, fun _ => ⟨?_, ?_⟩⟩
    · rw [exec_runOneSample_of_some hs, tick_of_records hmotor hrec hpos, recordTick_of_native hm hbring]
    · rw [recordedBlock_read, ← hread _ hstores k hk]
      exact if_neg (h.resolve_left hnotPlays)
    · rw [endTick_tape]
      rfl
    · rw [recordedBlock_read]
      exact if_pos rfl

end Sys2Proof.Machine

/-! ### Tape: the samples of a SoundFile tape (44_tape.md R451, R452) -/

namespace Sys2Proof.Machine

/-! #### The conversion of samples -/

theorem invertIf_invertIf (b : Bool) (x : Rat) : invertIf b (invertIf b x) = x := by
  cases b with
  | true => exact neg_neg x
  | false => rfl

theorem scale_pos (r : Nat) : (0 : Rat) < ((2 ^ (r - 1) : Nat) : Rat) := Nat.cast_pos.2 (Nat.two_pow_pos _)

/-- A sample stands half a step above the lower end of its interval. -/
theorem toReal_add_one_mul (r : Nat) (v : Byte) :
    (toReal r v + 1) * ((2 ^ (r - 1) : Nat) : Rat) = (v.toNat : Rat) + 1 / 2 := by
  have hne := ne_of_gt (scale_pos r)
  rw [toReal]
  field_simp
  ring

theorem floor_natCast_add_half (n : Nat) : ((n : Rat) + 1 / 2).floor = n := by
  refine le_antisymm (Int.lt_add_one_iff.1 (Rat.floor_lt_iff.2 ?_)) (Rat.le_floor_iff.2 ?_)
  · push_cast
    linarith
  · push_cast
    linarith

theorem fromReal_toReal {r : Nat} {v : Byte} (hv : v.toNat < 2 ^ r) : fromReal r (toReal r v) = v := by
  rw [fromReal, toReal_add_one_mul, floor_natCast_add_half, Int.toNat_natCast, Nat.min_eq_left (by omega)]
  rw [BitVec.ofNat_toNat, BitVec.setWidth_eq]

theorem toReal_bounds {r : Nat} {v : Byte} (hr : 1 ≤ r) (hv : v.toNat < 2 ^ r) :
    -1 ≤ toReal r v ∧ toReal r v ≤ 1 := by
  have hpos := scale_pos r
  have hmul := toReal_add_one_mul r v
  have hzero : (0 : Rat) ≤ v.toNat := Nat.cast_nonneg _
  have htop : (v.toNat : Rat) + 1 ≤ 2 * ((2 ^ (r - 1) : Nat) : Rat) := by
    have hdouble : 2 ^ r = 2 * 2 ^ (r - 1) := by
      rw [← pow_succ', Nat.sub_add_cancel hr]
    rw [hdouble] at hv
    exact_mod_cast hv
  constructor <;> nlinarith

/-- The clamp of `fromReal` written with integers (44_tape.md R451). -/
theorem fromReal_eq_ofInt (r : Nat) (y : Rat) :
    fromReal r y
      = BitVec.ofInt 8 (min (max ((y + 1) * ((2 ^ (r - 1) : Nat) : Rat)).floor 0) ((2 ^ r - 1 : Nat) : Int)) := by
  have hclamp : min (max ((y + 1) * ((2 ^ (r - 1) : Nat) : Rat)).floor 0) ((2 ^ r - 1 : Nat) : Int)
      = ((min ((y + 1) * ((2 ^ (r - 1) : Nat) : Rat)).floor.toNat (2 ^ r - 1) : Nat) : Int) := by
    omega
  rw [hclamp, BitVec.ofInt_natCast, fromReal]

end Sys2Proof.Machine

/-! ### Tape: the tick of a SoundFile tape (44_tape.md R410, R451, R452, R455)

The tick after the write-back is the same whatever the write-back did, so a tick into another block is compared with the
tick after a flush, and with that of the block made clean. -/

namespace Sys2Proof.Machine

variable {s : State} {t : Tape} {f : SoundTape}

/-! #### A frame block brought in -/

theorem bringInFrames_of_resident {b : Nat} (h : f.frameBlockIndex = some b) : bringInFrames t f b s = (false, f, s) :=
  if_pos h

/-- The frame block of the tape position, loaded in state `w`. -/
def crossedFrames (t : Tape) (f : SoundTape) (w : State) : SoundTape := { f with
  frameBuf := (loadFrames t f (t.tapePosition / soundBlock) w).1,
  frameBlockIndex := some (t.tapePosition / soundBlock), frameBlockDirty := false }

theorem bringInFrames_of_writeBack {failed : Bool} {w : State} (h : f.frameBlockIndex ≠ some (t.tapePosition / soundBlock))
    (hback : writeBackFrames t f s = (failed, w)) :
    bringInFrames t f (t.tapePosition / soundBlock) s
      = (failed, crossedFrames t f w, (loadFrames t f (t.tapePosition / soundBlock) w).2) := by
  rw [bringInFrames, if_neg h, hback]
  rfl

theorem loadFrames_stores (t : Tape) (f : SoundTape) (b : Nat) (s : State) : (loadFrames t f b s).2.stores = s.stores := by
  unfold loadFrames
  dsimp only
  split
  · rfl
  split
  · exact s.ioNext_stores
  · exact s.ioNext_stores

theorem fitFrames_nil_getD (k n : Nat) {j : Nat} (hj : j < n) : (fitFrames k n []).getD j [] = zeroFrame k := by
  rw [fitFrames_getD _ _ _ hj]
  exact if_neg (Nat.not_lt_zero j)

/-- Frame `j` of a block as a load brings it in: the stored frame below the length, silence elsewhere and where the read
fails. -/
theorem loadFrames_getD (t : Tape) (f : SoundTape) (b : Nat) {j : Nat} (hj : j < soundBlock) (s : State) :
    (loadFrames t f b s).1.getD j [] =
      if s.ioFails = false ∧ soundBlock * b + j < t.tapeLength ∧ soundBlock * b + j < (framesOf (s.store t.store)).length
      then (framesOf (s.store t.store)).getD (soundBlock * b + j) [] else zeroFrame f.nChannels := by
  have hcount : j < frameCount t b ↔ soundBlock * b + j < t.tapeLength := by
    unfold frameCount
    omega
  unfold loadFrames
  dsimp only
  generalize framesOf (s.store t.store) = stored
  have hlength : ((stored.drop (soundBlock * b)).take (frameCount t b)).length
      = min (frameCount t b) (stored.length - soundBlock * b) := by
    rw [List.length_take, List.length_drop]
  by_cases hnil : (stored.drop (soundBlock * b)).take (frameCount t b) = []
  · rw [hnil, List.length_nil] at hlength
    rw [if_pos hnil, fitFrames_nil_getD _ _ hj, if_neg]
    omega
  rw [if_neg hnil]
  cases hdraw : s.ioFails with
  | true =>
    rw [if_pos rfl, fitFrames_nil_getD _ _ hj, if_neg (by simp)]
  | false =>
    rw [if_neg Bool.false_ne_true, fitFrames_getD _ _ _ hj, hlength]
    by_cases hin : j < min (frameCount t b) (stored.length - soundBlock * b)
    · rw [if_pos hin, if_pos ⟨rfl, by omega, by omega⟩, List.getD_eq_getElem?_getD,
        List.getElem?_take_of_lt (by omega), List.getElem?_drop, ← List.getD_eq_getElem?_getD]
    · rw [if_neg hin, if_neg]
      omega

/-! #### The tick within the block -/

/-- The tape after a sample is played from block `g` in state `u`. -/
def Tape.playedSound (t : Tape) (g : SoundTape) (u : State) : Tape := { t with
  inputState := fromReal t.requestedBitsPerSample (invertIf g.invert (channelSample t g t.tapePosition u)),
  tapePosition := t.tapePosition + 1, medium := .soundFile g }

/-- Block `g` with a frame of the output sample put in at the tape position. -/
def Tape.recordedFrames (t : Tape) (g : SoundTape) : SoundTape := { g with
  frameBuf := g.frameBuf.set (t.tapePosition % soundBlock) (writtenFrame t.requestedBitsPerSample g t.outputState),
  frameBlockDirty := true }

/-- The tape after a tick with block `g` resident in state `u`. -/
def Tape.tickedSound (t : Tape) (g : SoundTape) (u : State) : Tape :=
  if t.isRecordOn then t.recorded (.soundFile (t.recordedFrames g)) else t.playedSound g u

theorem tickedSound_of_plays (hrec : t.isRecordOn = false) (g : SoundTape) (u : State) :
    t.tickedSound g u = t.playedSound g u := if_neg (by simp [hrec])

theorem tickedSound_of_records (hrec : t.isRecordOn = true) (g : SoundTape) (u : State) :
    t.tickedSound g u = t.recorded (.soundFile (t.recordedFrames g)) := if_pos hrec

/-- The tape plays or records one sample. -/
def Tape.Runs (t : Tape) : Prop :=
  t.isRecordOn = false ∧ t.isPlaybackOn = true ∧ t.tapePosition < t.tapeLength
    ∨ t.isRecordOn = true ∧ t.tapePosition < tapeLimit

/-- Bringing a block in changes nothing of the block but the frames and where they stand. -/
theorem bringInFrames_fields (t : Tape) (f : SoundTape) (b : Nat) (s : State) :
    (bringInFrames t f b s).2.1.invert = f.invert ∧ (bringInFrames t f b s).2.1.nChannels = f.nChannels
      ∧ (bringInFrames t f b s).2.1.channel = f.channel := by
  obtain ⟨-, h⟩ | ⟨-, h⟩ := bringInFrames_cases t f b s <;> rw [h] <;> exact ⟨rfl, rfl, rfl⟩

theorem playTick_of_soundFile (hm : t.medium = .soundFile f) {failed : Bool} {g : SoundTape} {u : State}
    (h : bringInFrames t f (t.tapePosition / soundBlock) s = (failed, g, u)) :
    playTick t s = endTick failed (t.playedSound g u) u := by
  obtain ⟨hinvert, -, -⟩ := bringInFrames_fields t f (t.tapePosition / soundBlock) s
  rw [h] at hinvert
  dsimp only at hinvert
  simp only [playTick, readSample, hm, readSound, h, Tape.playedSound, hinvert]

theorem recordTick_of_soundFile (hm : t.medium = .soundFile f) {failed : Bool} {g : SoundTape} {u : State}
    (h : bringInFrames t f (t.tapePosition / soundBlock) s = (failed, g, u)) :
    recordTick t s = endTick failed (t.recorded (.soundFile (t.recordedFrames g))) u := by
  obtain ⟨hinvert, hchannels, hchannel⟩ := bringInFrames_fields t f (t.tapePosition / soundBlock) s
  rw [h] at hinvert hchannels hchannel
  dsimp only at hinvert hchannels hchannel
  have hbring : bringInFrames (deleteCueAt t.tapePosition t) f (t.tapePosition / soundBlock) s = (failed, g, u) := by
    rw [deleteCueAt_spec]
    exact h
  simp only [recordTick, writeSample, deleteCueAt_medium, hm, writeSound, hbring, Tape.recordedFrames, writtenFrame,
    hinvert, hchannels, hchannel]
  rw [deleteCueAt_spec]
  rfl

theorem tick_of_soundFile (hm : t.medium = .soundFile f) (hmotor : t.isMotorOn = true) (hruns : t.Runs) {failed : Bool}
    {g : SoundTape} {u : State} (h : bringInFrames t f (t.tapePosition / soundBlock) s = (failed, g, u)) :
    tick t s = endTick failed (t.tickedSound g u) u := by
  obtain ⟨hrec, hplay, hpos⟩ | ⟨hrec, hpos⟩ := hruns
  · rw [tick_of_plays hmotor hrec hplay hpos, playTick_of_soundFile hm h, Tape.tickedSound, if_neg (by simp [hrec])]
  · rw [tick_of_records hmotor hrec hpos, recordTick_of_soundFile hm h, Tape.tickedSound, if_pos hrec]

theorem tick_of_writeBackFrames (hm : t.medium = .soundFile f) (hmotor : t.isMotorOn = true) (hruns : t.Runs)
    (hother : f.frameBlockIndex ≠ some (t.tapePosition / soundBlock)) {failed : Bool} {w : State}
    (hback : writeBackFrames t f s = (failed, w)) :
    tick t s = endTick failed
      (t.tickedSound (crossedFrames t f w) (loadFrames t f (t.tapePosition / soundBlock) w).2)
      (loadFrames t f (t.tapePosition / soundBlock) w).2 :=
  tick_of_soundFile hm hmotor hruns (bringInFrames_of_writeBack hother hback)

/-! #### The tape and the result in the deck do not matter to a load -/

theorem State.withTape_ioNext (s : State) (x : Tape) (r : Result) : (s.withTape x r).ioNext = s.ioNext.withTape x r := by
  unfold State.ioNext
  rw [State.withTape_ioScript]
  split <;> rfl

theorem loadFrames_withTape (t : Tape) (f : SoundTape) (b : Nat) (w : State) (x : Tape) (r : Result) :
    loadFrames t f b (w.withTape x r) = ((loadFrames t f b w).1, (loadFrames t f b w).2.withTape x r) := by
  have hfails : (w.withTape x r).ioFails = w.ioFails := rfl
  have hstore : (w.withTape x r).store t.store = w.store t.store := rfl
  unfold loadFrames
  dsimp only
  rw [hfails, hstore, State.withTape_ioNext]
  split
  · rfl
  · split <;> rfl

theorem tickedSound_flushedSound (t : Tape) (f g : SoundTape) (u : State) (x : Tape) (r : Result) :
    (t.flushedSound f).tickedSound g (u.withTape x r) = t.tickedSound g u := by
  cases hrec : t.isRecordOn with
  | true =>
    rw [tickedSound_of_records hrec, tickedSound_of_records (t := t.flushedSound f) hrec]
    rfl
  | false =>
    rw [tickedSound_of_plays hrec, tickedSound_of_plays (t := t.flushedSound f) hrec]
    rfl

/-- The tick of the tape with its block made clean, put in the deck of `w`, is the tick after a write-back that left `w`. -/
theorem tick_flushedSound (hmotor : t.isMotorOn = true) (hruns : t.Runs)
    (hother : f.frameBlockIndex ≠ some (t.tapePosition / soundBlock)) (w : State) (r : Result) :
    tick (t.flushedSound f) (w.withTape (t.flushedSound f) r) = endTick false
      (t.tickedSound (crossedFrames t f w) (loadFrames t f (t.tapePosition / soundBlock) w).2)
      (loadFrames t f (t.tapePosition / soundBlock) w).2 := by
  have hclean : ¬ FrameWrites (t.flushedSound f) { f with frameBlockDirty := false } :=
    fun ⟨hdirty, _⟩ => Bool.false_ne_true hdirty
  have hload : loadFrames (t.flushedSound f) { f with frameBlockDirty := false }
      ((t.flushedSound f).tapePosition / soundBlock) (w.withTape (t.flushedSound f) r)
        = ((loadFrames t f (t.tapePosition / soundBlock) w).1,
          (loadFrames t f (t.tapePosition / soundBlock) w).2.withTape (t.flushedSound f) r) :=
    loadFrames_withTape t f _ w _ r
  have hcrossed : crossedFrames (t.flushedSound f) { f with frameBlockDirty := false } (w.withTape (t.flushedSound f) r)
      = crossedFrames t f w := by
    rw [crossedFrames, hload]
    rfl
  rw [tick_of_writeBackFrames (t := t.flushedSound f) rfl hmotor hruns hother (writeBackFrames_of_not_writes hclean),
    hcrossed, hload, tickedSound_flushedSound]
  rfl

/-! #### What is heard and what is put down -/

theorem channelSample_of_keepsBlocks {u : State} (hkeeps : KeepsBlocks s u) (hstores : u.stores = s.stores)
    (g : SoundTape) (i : Nat) : channelSample t g i u = channelSample t g i s := by
  unfold channelSample channelSamples
  rw [hkeeps.params, State.store_of_stores_eq hstores]

theorem channelSample_eq (t : Tape) (g : SoundTape) (i : Nat) (s : State) :
    channelSample t g i s = if g.filterOn = true ∧ s.params.soundFilterSupplied = true
      then Config.soundFilter (channelSamples t g s) i
      else (g.frameBuf.getD (i % 1024) []).getD g.channel 0 := by
  unfold channelSample
  exact if_congr Bool.and_eq_true_iff rfl rfl

theorem playedSound_eq (t : Tape) (g : SoundTape) (u : State) :
    t.playedSound g u = { t with
      inputState := BitVec.ofInt 8 (min (max (((if g.invert then -(channelSample t g t.tapePosition u)
        else channelSample t g t.tapePosition u) + 1) * ((2 ^ (t.requestedBitsPerSample - 1) : Nat) : Rat)).floor 0)
        ((2 ^ t.requestedBitsPerSample - 1 : Nat) : Int)),
      tapePosition := t.tapePosition + 1, medium := .soundFile g } := by
  rw [Tape.playedSound, fromReal_eq_ofInt, invertIf]

/-- Settles O50: the round trip of the conversion; the tick within the block; and the tick into another block with nothing
to write back, after a good write-back, and after a failed one. -/
theorem soundTicks : Obligations.SoundTicks := by
  refine ⟨fun r v inv hr hv => ?_, ?_⟩
  · have hpos : 1 ≤ r := by obtain rfl | rfl | rfl | rfl := validBits_cases hr <;> decide
    rw [invertIf_invertIf]
    exact ⟨fromReal_toReal hv, toReal_bounds hpos hv⟩
  intro s t f hs hm hmotor r pos sample value frame heard plays records played recorded stored
  refine ⟨fun hindex ⟨hrec, hplay, hpos⟩ => ?_, fun hindex ⟨hrec, hpos⟩ => ?_, fun hother hclean hruns => ?_,
    fun hother hruns hgood => ?_, fun c hc hne hdirty hlen hruns hfails => ?_⟩
  · rw [exec_runOneSample_of_some hs, tick_of_soundFile hm hmotor (.inl ⟨hrec, hplay, hpos⟩)
      (bringInFrames_of_resident hindex), tickedSound_of_plays hrec, playedSound_eq, channelSample_eq]
    rfl
  · rw [exec_runOneSample_of_some hs, tick_of_soundFile hm hmotor (.inr ⟨hrec, hpos⟩)
      (bringInFrames_of_resident hindex), tickedSound_of_records hrec]
    rfl
  · have hback : writeBackFrames t f s = (false, s) :=
      writeBackFrames_of_not_writes fun ⟨hdirty, _⟩ => Bool.false_ne_true (hclean.symm.trans hdirty)
    have hkeeps := loadFrames_keepsBlocks t f (pos / soundBlock) s
    have hstores := loadFrames_stores t f (pos / soundBlock) s
    have htick := tick_of_writeBackFrames hm hmotor hruns hother hback
    refine ⟨_, (loadFrames t f (pos / soundBlock) s).1, (exec_runOneSample_of_some hs).trans (congrArg _ htick),
      endTick_result false _ _, (endTick_stores false _ _).trans hstores, loadFrames_length t f _ s,
      fun hgood j hj => ?_, fun hfails j hj => ?_, fun ⟨hrec, _⟩ => ?_, fun ⟨hrec, _⟩ => ?_⟩
    · rw [loadFrames_getD t f _ hj, State.noFailure_ioFails hgood]
      simp only [true_and]
      rfl
    · have hdraw : s.ioFails = true := hfails
      rw [loadFrames_getD t f _ hj, hdraw, if_neg (by simp)]
      rfl
    · rw [endTick_tape, tickedSound_of_plays hrec, playedSound_eq,
        channelSample_of_keepsBlocks hkeeps hstores, channelSample_eq]
      rfl
    · rw [endTick_tape, tickedSound_of_records hrec]
      rfl
  · obtain ⟨w, hback⟩ : ∃ w, writeBackFrames t f s = (false, w) := by
      by_cases hwrites : FrameWrites t f
      · exact ⟨_, writeBackFrames_of_good hwrites (State.noFailure_ioFails hgood)⟩
      · exact ⟨_, writeBackFrames_of_not_writes hwrites⟩
    have hflush : flushInto t s = w.withTape (t.flushedSound f) .none := flushInto_of_soundFile hm hback
    rw [exec_runOneSample_of_some hs, tick_of_writeBackFrames hm hmotor hruns hother hback, hflush,
      exec_runOneSample_of_some (State.withTape_tape w _ _), tick_flushedSound hmotor hruns hother]
  · have hother : f.frameBlockIndex ≠ some (pos / soundBlock) := by
      rw [hc]
      exact fun h => hne (Option.some.inj h)
    have hwrites : FrameWrites t f := by
      refine ⟨hdirty, by simp [hc], ?_⟩
      rw [hc, Option.getD_some, frameCount, soundBlock]
      omega
    have htick := tick_of_writeBackFrames hm hmotor hruns hother (writeBackFrames_of_fails hwrites hfails)
    have hcleanTick := tick_flushedSound hmotor hruns hother s.ioNext s.ioNext.result
    refine ⟨_, (exec_runOneSample_of_some rfl).trans (congrArg _ hcleanTick), endTick_result false _ _, ?_, ?_⟩
    · rw [endTick_stores, loadFrames_stores, State.ioNext_stores]
    · rw [exec_runOneSample_of_some hs, htick]
      rfl

end Sys2Proof.Machine

/-! ### Whole-machine rules (60_exceptions.md R512, R513, R538)

That an operation completes and leaves the other sub-blocks alone is in its effect; that it raises nothing is in how it
ends. -/

namespace Sys2Proof.Machine

variable {s t : State}

/-! #### Completion and frame -/

theorem effect_of_exec_eq {i : Instr} (h : exec i s = .next t) : Effect (subBlock i) s t := by
  obtain ⟨u, hexec, heffect⟩ := exec_effect i s
  cases hexec.symm.trans h
  exact heffect

/-- Settles O5: an instruction completes with the effect of its sub-block, which keeps the parameters and the calls. -/
theorem everyInstructionCompletes : Obligations.EveryInstructionCompletes := by
  intro i s
  obtain ⟨t, hexec, heffect⟩ := exec_effect i s
  obtain ⟨hparams, hcalls, -⟩ := heffect.keepsOthers
  exact ⟨t, hexec, hparams, hcalls⟩

/-- Settles O6: the effect of a sub-block keeps the other two. -/
theorem subBlocksShareNoState : Obligations.SubBlocksShareNoState := by
  intro i s t hexec
  obtain ⟨-, -, hothers⟩ := (effect_of_exec_eq hexec).keepsOthers
  exact hothers

/-! #### Outcomes (60_exceptions.md R510, R513) -/

/-- The result is the outcome `HostIoError`, of whatever kind. -/
def Result.isOutcome : Result → Bool
  | .hostIoError _ => true
  | _ => false

theorem Result.isOutcome_hostIoError (k : IoError) : (Result.hostIoError k).isOutcome = true := rfl

/-- The operation ended with a result value. -/
def EndsNormally (t : State) : Prop := t.result.isOutcome = false

theorem EndsNormally.result_ne (h : EndsNormally t) (k : IoError) : t.result ≠ .hostIoError k := by
  intro hk
  rw [EndsNormally, hk, Result.isOutcome_hostIoError] at h
  cases h

theorem readData_endsNormally (s : State) : EndsNormally (readData s) := by
  unfold readData
  split
  · rfl
  split <;> rfl

theorem writeData_endsNormally (v : Byte) (s : State) : EndsNormally (writeData v s) := by
  rw [EndsNormally, writeData_result]
  rfl

theorem endsNormally_of_onTape {f : Tape → State → State} (h : onTape f s = .next t)
    (hf : ∀ x, EndsNormally (f x s)) : EndsNormally t := by
  cases hs : s.tape with
  | none =>
    cases (onTape_none hs).symm.trans h
    rfl
  | some x =>
    cases (onTape_some hs).symm.trans h
    exact hf x

theorem execPlay_endsNormally (h : execPlay s = .next t) : EndsNormally t := endsNormally_of_onTape h fun _ => rfl

theorem execSetOutputSignal_endsNormally {v : Byte} (h : execSetOutputSignal v s = .next t) : EndsNormally t :=
  endsNormally_of_onTape h fun _ => rfl

theorem execDeleteAllCuePoints_endsNormally (h : execDeleteAllCuePoints s = .next t) : EndsNormally t :=
  endsNormally_of_onTape h fun _ => rfl

theorem execRecord_endsNormally (h : execRecord s = .next t) : EndsNormally t := by
  refine endsNormally_of_onTape h fun x => ?_
  split <;> rfl

theorem execGetInputSignal_endsNormally (h : execGetInputSignal s = .next t) : EndsNormally t := by
  unfold execGetInputSignal at h
  split at h <;> cases h <;> rfl

theorem execAddCuePoint_endsNormally (h : execAddCuePoint s = .next t) : EndsNormally t := by
  unfold execAddCuePoint at h
  split at h
  · cases h; rfl
  split at h
  · cases h; rfl
  split at h <;> cases h <;> rfl

theorem execDeleteNearestCuePoint_endsNormally (h : execDeleteNearestCuePoint s = .next t) : EndsNormally t := by
  unfold execDeleteNearestCuePoint at h
  split at h
  · cases h; rfl
  split at h <;> cases h <;> rfl

theorem execGetTapeInfo_endsNormally (h : execGetTapeInfo s = .next t) : EndsNormally t := by
  unfold execGetTapeInfo at h
  split at h <;> cases h <;> rfl

theorem execGcrWriteByte_endsNormally {i : Nat} {v : Byte} (h : execGcrWriteByte i v s = .next t) :
    EndsNormally t := by
  unfold execGcrWriteByte at h
  dsimp only at h
  split at h <;> cases h <;> rfl

theorem execSetSectorErrorCode_endsNormally {n : Nat} {code : Byte} (h : execSetSectorErrorCode n code s = .next t) :
    EndsNormally t := by
  unfold execSetSectorErrorCode at h
  split at h <;> cases h <;> rfl

/-- The operations of R513 by how they end: most by one `returns`, some by one on every way they go. Those that may
raise are shut out by the premise. -/
theorem endsNormally_of_exec_eq {i : Instr} (hraise : mayRaise i = false) (h : exec i s = .next t) :
    EndsNormally t := by
  cases i with
  | restore | seek | step | stepIn | stepOut | rdsec | wrsec | rdaddr | forceint | rdtrk | wrtrk | cmd
  | writeCommandRegister | st | rtr | wtr | rsr | wsr | readStatusRegister | writeTrackRegister | readTrackRegister
  | writeSectorRegister | readSectorRegister | peekRegister | getHeadPosition | getInterruptRequest | getDataRequest
  | setSide | resetFdc | closeFdc | gcrEncodeFourBytes | gcrDecodeFourBytes | gcrEncodeTrack | gcrDecodeTrack
  | readTrack | setCurrentTrack | gcrReadByte | getTrackInfo | getSectorErrorCode | closeD64 | closeTape =>
    cases h
    rfl
  | rdr | readDataRegister =>
    cases h
    exact readData_endsNormally s
  | wdr v | writeDataRegister v =>
    cases h
    exact writeData_endsNormally v s
  | gcrWriteByte => exact execGcrWriteByte_endsNormally h
  | setSectorErrorCode => exact execSetSectorErrorCode_endsNormally h
  | play => exact execPlay_endsNormally h
  | record => exact execRecord_endsNormally h
  | getInputSignal => exact execGetInputSignal_endsNormally h
  | setOutputSignal => exact execSetOutputSignal_endsNormally h
  | addCuePoint => exact execAddCuePoint_endsNormally h
  | deleteNearestCuePoint => exact execDeleteNearestCuePoint_endsNormally h
  | deleteAllCuePoints => exact execDeleteAllCuePoints_endsNormally h
  | getTapeInfo => exact execGetTapeInfo_endsNormally h
  | _ => cases hraise

/-- Settles O7: an operation that ends normally gives no outcome of any kind. -/
theorem neverAnOutcome : Obligations.NeverAnOutcome := by
  intro i s t k hraise hexec
  exact (endsNormally_of_exec_eq hraise hexec).result_ne k

end Sys2Proof.Machine

/-! ### A command during a transfer (43_fdc_commands.md R341, 60_exceptions.md R516)

With `abort_and_execute` the transfer is ended as by FORCE INTERRUPT 0xD0; what that leaves beside (the phase, the
command byte, the result) the command taken next replaces. -/

namespace Sys2Proof.Machine

variable {s t u : State}

/-! #### The busy-hack phase does not matter to the end of a transfer -/

theorem memWrite_setFdc (id off : Nat) (bs : List Byte) (s : State) (f : Fdc) :
    memWrite id off bs (s.setFdc f) = ((memWrite id off bs s).1, (memWrite id off bs s).2.setFdc f) := by
  unfold memWrite
  rw [State.setFdc_store, State.setFdc_ioFails, State.setFdc_ioNext]
  split <;> rfl

theorem imageWrite_setFdc (f g : Fdc) (s : State) :
    imageWrite f (s.setFdc g) = ((imageWrite f s).1, (imageWrite f s).2.setFdc g) := by
  unfold imageWrite
  split
  · rfl
  · exact memWrite_setFdc _ _ _ s g

/-- The FDC with the phase of the busy hack set (43_fdc_commands.md R340). -/
def Fdc.phased (f : Fdc) : Fdc := { f with busyHackPhase := true }

/-- The image write reads the image, the offset and the buffer only. -/
theorem imageWrite_phased (f : Fdc) : imageWrite f.phased = imageWrite f := rfl

theorem flushPartial_phased (s : State) :
    flushPartial (s.setFdc s.fdc.phased) = (flushPartial s).setFdc (flushPartial s).fdc.phased := by
  have hpadded : s.fdc.phased.padded = s.fdc.padded.phased := rfl
  unfold flushPartial
  rw [State.setFdc_fdc, hpadded, imageWrite_phased, imageWrite_setFdc, imageWrite_setFdc, imageWrite_setFdc]
  dsimp only
  split <;> rfl

theorem forceInterrupt_phased (i3 i2 : Bool) (s : State) :
    forceInterrupt i3 i2 (s.setFdc s.fdc.phased)
      = (forceInterrupt i3 i2 s).setFdc (forceInterrupt i3 i2 s).fdc.phased := by
  have hflush := flushPartial_phased (s.setFdc { s.fdc with interruptRequestFlag := false, forceIntPending := false })
  have hpartial : partialWrite { s.fdc.phased with interruptRequestFlag := false, forceIntPending := false }
      = partialWrite { s.fdc with interruptRequestFlag := false, forceIntPending := false } := rfl
  unfold forceInterrupt
  dsimp only
  rw [State.setFdc_fdc, State.setFdc_fdc, State.setFdc_fdc, hpartial]
  split
  · exact congrArg (fun v : State => v.setFdc { v.fdc with
      bufPos := fdcSector, dataRequestFlag := false, statusRegister := clearBusyDrq v.fdc.statusRegister,
      interruptRequestFlag := i3 || i2, forceIntPending := i3 || i2 }) hflush
  · rfl

/-- A command taken after FORCE INTERRUPT `d` finds what the bare end of the transfer leaves. -/
theorem loadCommand_acceptForce (c d : Byte) (s : State) :
    loadCommand c (acceptForce d false false s) = loadCommand c (forceInterrupt false false s) := by
  have hforce : forceInterrupt false false (s.setFdc { s.fdc with busyHackPhase := true }) = _ :=
    forceInterrupt_phased false false s
  rw [acceptForce, hforce]
  rfl

/-! #### The last result does not matter to a command -/

/-- A command body that neither reads nor sets the result. -/
def BodyIgnoresResult (body : State → State) : Prop :=
  ∀ (s : State) (r : Result), body (s.returns r) = (body s).returns r

theorem State.returns_indexNext (s : State) (r : Result) : (s.returns r).indexNext = s.indexNext.returns r := by
  rw [State.indexNext, State.indexNext, State.returns_params]
  split <;> rfl

theorem typeIEnd_returns (v : Bool) : BodyIgnoresResult (typeIEnd v) := by
  intro s r
  rw [typeIEnd, State.returns_indexNext]
  rfl

theorem State.returns_setFdc (s : State) (r : Result) (f : Fdc) :
    (s.returns r).setFdc f = (s.setFdc f).returns r := rfl

/-- The head and the registers moved, and the type I command ended. -/
theorem typeIEnd_setFdc_returns (v : Bool) (f : Fdc) (s : State) (r : Result) :
    typeIEnd v ((s.returns r).setFdc f) = (typeIEnd v (s.setFdc f)).returns r := typeIEnd_returns v (s.setFdc f) r

theorem selectSide_returns (hs pc : Bool) : BodyIgnoresResult (selectSide hs pc) := by
  intro s r
  rw [selectSide_eq, selectSide_eq]
  rfl

theorem cmdReadSector_returns (hs pc : Bool) : BodyIgnoresResult (cmdReadSector hs pc) := by
  intro s r
  unfold cmdReadSector
  rw [selectSide_returns]
  dsimp only
  generalize selectSide hs pc s = s1
  rw [State.returns_fdc]
  split
  · rfl
  next id _ =>
  split
  · rw [State.returns_setFdc, memRead_returns]
    generalize memRead id (sectorOffset s1.fdc) fdcSector _ = out
    obtain ⟨bs | _ | _, v⟩ := out <;> rfl
  · rfl

theorem cmdWriteSector_returns (hs pc : Bool) : BodyIgnoresResult (cmdWriteSector hs pc) := by
  intro s r
  unfold cmdWriteSector
  rw [selectSide_returns]
  dsimp only
  generalize selectSide hs pc s = s1
  rw [State.returns_fdc]
  split
  · rfl
  split <;> rfl

theorem cmdReadAddress_returns : BodyIgnoresResult cmdReadAddress := by
  intro s r
  unfold cmdReadAddress
  rw [State.returns_fdc]
  split <;> rfl

/-- A body chosen by the command byte alone. -/
theorem bodyIgnoresResult_ite {p : Prop} [Decidable p] {f g : State → State} (hf : p → BodyIgnoresResult f)
    (hg : ¬ p → BodyIgnoresResult g) : BodyIgnoresResult fun s => if p then f s else g s := by
  intro s r
  dsimp only
  by_cases hp : p
  · rw [if_pos hp, if_pos hp]
    exact hf hp s r
  · rw [if_neg hp, if_neg hp]
    exact hg hp s r

theorem execute_returns {c : Byte} (hc : c &&& 0xF0 ≠ 0xD0) : BodyIgnoresResult (execute c) := by
  refine bodyIgnoresResult_ite (fun _ s r => typeIEnd_setFdc_returns _ _ s r) fun _ => ?_
  refine bodyIgnoresResult_ite (fun _ s r => typeIEnd_setFdc_returns _ _ s r) fun _ => ?_
  refine bodyIgnoresResult_ite (fun _ s r => typeIEnd_setFdc_returns _ _ s r) fun _ => ?_
  refine bodyIgnoresResult_ite (fun _ s r => typeIEnd_setFdc_returns _ _ s r) fun _ => ?_
  refine bodyIgnoresResult_ite (fun _ s r => typeIEnd_setFdc_returns _ _ s r) fun _ => ?_
  refine bodyIgnoresResult_ite (fun _ => cmdReadSector_returns _ _) fun _ => ?_
  refine bodyIgnoresResult_ite (fun _ => cmdWriteSector_returns _ _) fun _ => ?_
  refine bodyIgnoresResult_ite (fun _ => cmdReadAddress_returns) fun _ => ?_
  refine bodyIgnoresResult_ite (fun hforce => absurd hforce hc) fun _ => ?_
  exact bodyIgnoresResult_ite (fun _ _ _ => rfl) fun _ _ _ => rfl

/-! #### The two readings of `CMD_WHILE_BUSY` -/

theorem exec_cmd_of_not_force {c : Byte} (hc : c &&& 0xF0 ≠ 0xD0) (s : State) :
    exec (.cmd c) s = .next ((acceptCommand c (execute c) s).returns .none) :=
  congrArg (fun v : State => Host.Outcome.next (v.returns .none)) (if_neg hc)

theorem exec_cmd_of_fault {c : Byte} (hbusy : s.fdc.bufPos < fdcSector) (hc : c &&& 0xF0 ≠ 0xD0)
    (hp : s.params.cmdWhileBusy = .fault) :
    exec (.cmd c) s = .next { s with fdc := { s.fdc with faulted := true }, result := .none } := by
  rw [exec_cmd_of_not_force hc, acceptCommand_fault hbusy hp]
  rfl

theorem exec_cmd_forceInterrupt (s : State) :
    exec (.cmd 0xD0) s = .next ((acceptForce 0xD0 false false s).returns .none) := rfl

theorem exec_cmd_of_abort {c : Byte} (hbusy : s.fdc.bufPos < fdcSector) (hc : c &&& 0xF0 ≠ 0xD0)
    (hp : s.params.cmdWhileBusy = .abortAndExecute) :
    exec (.cmd c) s = exec (.cmd c) ((acceptForce 0xD0 false false s).returns .none) := by
  have hidle : fdcSector ≤ ((acceptForce 0xD0 false false s).returns .none).fdc.bufPos := Nat.le_refl _
  have hload : loadCommand c ((acceptForce 0xD0 false false s).returns .none)
      = (loadCommand c (forceInterrupt false false s)).returns .none :=
    congrArg (State.returns · .none) (loadCommand_acceptForce c 0xD0 s)
  rw [exec_cmd_of_not_force hc, exec_cmd_of_not_force hc, acceptCommand_abort hbusy hp, acceptCommand_idle hidle, hload,
    execute_returns hc]
  rfl

/-! #### The flag is sticky -/

/-- From `s` to `t` a set `faulted` stays set (60_exceptions.md R516). -/
def FaultStays (s t : State) : Prop := s.fdc.faulted = true → t.fdc.faulted = true

theorem FaultStays.trans (h₁ : FaultStays s t) (h₂ : FaultStays t u) : FaultStays s u := fun h => h₂ (h₁ h)

theorem FaultStays.refl (s : State) : FaultStays s s := id

theorem faultStays_of_fdc_eq (h : t.fdc = s.fdc) : FaultStays s t := by
  rw [FaultStays, h]
  exact id

theorem KeepsBlocks.faultStays (h : KeepsBlocks s t) : FaultStays s t := faultStays_of_fdc_eq h.fdc

theorem flushPartial_faultStays (s : State) : FaultStays s (flushPartial s) := by
  have hpad : FaultStays s (s.setFdc s.fdc.padded) := .refl s
  have hwrite := hpad.trans (imageWrite_keepsBlocks s.fdc.padded (s.setFdc s.fdc.padded)).faultStays
  unfold flushPartial
  dsimp only
  split <;> exact hwrite

theorem forceInterrupt_faultStays (i3 i2 : Bool) (s : State) : FaultStays s (forceInterrupt i3 i2 s) := by
  unfold forceInterrupt
  dsimp only
  split
  · exact flushPartial_faultStays (s.setFdc { s.fdc with interruptRequestFlag := false, forceIntPending := false })
  · exact .refl s

theorem selectSide_faultStays (hs pc : Bool) (s : State) : FaultStays s (selectSide hs pc s) := by
  rw [selectSide_eq]
  exact .refl s

theorem cmdReadSector_faultStays (hs pc : Bool) (s : State) : FaultStays s (cmdReadSector hs pc s) := by
  have hsel := selectSide_faultStays hs pc s
  unfold cmdReadSector
  dsimp only
  generalize selectSide hs pc s = s1 at hsel
  split
  · exact hsel
  split
  · split
    · next hread => exact hsel.trans (keepsBlocks_of_memRead_eq hread).faultStays
    · next hread => exact hsel.trans (keepsBlocks_of_memRead_eq hread).faultStays
  · exact hsel

theorem cmdWriteSector_faultStays (hs pc : Bool) (s : State) : FaultStays s (cmdWriteSector hs pc s) := by
  have hsel := selectSide_faultStays hs pc s
  unfold cmdWriteSector
  dsimp only
  split
  · exact hsel
  split <;> exact hsel

theorem cmdReadAddress_faultStays (s : State) : FaultStays s (cmdReadAddress s) := by
  unfold cmdReadAddress
  split <;> exact .refl s

theorem execute_faultStays (c : Byte) (s : State) : FaultStays s (execute c s) := by
  refine iteInduction (motive := FaultStays s) (fun _ => .refl s) fun _ => ?_
  refine iteInduction (fun _ => .refl s) fun _ => ?_
  refine iteInduction (fun _ => .refl s) fun _ => ?_
  refine iteInduction (fun _ => .refl s) fun _ => ?_
  refine iteInduction (fun _ => .refl s) fun _ => ?_
  refine iteInduction (fun _ => cmdReadSector_faultStays _ _ s) fun _ => ?_
  refine iteInduction (fun _ => cmdWriteSector_faultStays _ _ s) fun _ => ?_
  refine iteInduction (fun _ => cmdReadAddress_faultStays s) fun _ => ?_
  refine iteInduction (fun _ => forceInterrupt_faultStays _ _ s) fun _ => ?_
  exact iteInduction (fun _ => .refl s) fun _ => .refl s

/-- A command taken or refused keeps the flag if its body does. -/
theorem acceptCommand_faultStays {c : Byte} {body : State → State} (hbody : ∀ v, FaultStays v (body v))
    (s : State) : FaultStays s (acceptCommand c body s) := by
  by_cases hpos : s.fdc.bufPos < fdcSector
  · cases hp : s.params.cmdWhileBusy with
    | fault =>
      rw [acceptCommand_fault hpos hp]
      exact fun _ => rfl
    | abortAndExecute =>
      rw [acceptCommand_abort hpos hp]
      have hforce : FaultStays s (loadCommand c (forceInterrupt false false s)) :=
        forceInterrupt_faultStays false false s
      exact hforce.trans (hbody _)
  · rw [acceptCommand_idle (Nat.le_of_not_lt hpos)]
    exact hbody (loadCommand c s)

/-- A command row: its byte accepted, and no result. -/
theorem acceptCommand_returns_faultStays {c : Byte} {body : State → State} (hbody : ∀ v, FaultStays v (body v))
    (s : State) : FaultStays s ((acceptCommand c body s).returns .none) := acceptCommand_faultStays hbody s

theorem acceptForce_faultStays (c : Byte) (i3 i2 : Bool) (s : State) : FaultStays s (acceptForce c i3 i2 s) :=
  forceInterrupt_faultStays i3 i2 (s.setFdc { s.fdc with busyHackPhase := true })

theorem writeCommand_faultStays (c : Byte) (s : State) : FaultStays s (writeCommand c s) := by
  unfold writeCommand
  split
  · exact acceptForce_faultStays _ _ _ s
  · exact acceptCommand_faultStays (execute_faultStays c) s

theorem nextSector_faultStays (s : State) : FaultStays s (nextSector s) := by
  unfold nextSector
  split
  · exact execute_faultStays s.fdc.commandRegister (s.setFdc { s.fdc with sectorRegister := s.fdc.sectorRegister + 1 })
  · exact .refl s

theorem endWriteSector_faultStays (s : State) : FaultStays s (endWriteSector s) := by
  have hwrite : FaultStays s (imageWrite (endBlock s).fdc (endBlock s)).2 :=
    (imageWrite_keepsBlocks (endBlock s).fdc (endBlock s)).faultStays
  unfold endWriteSector
  dsimp only
  split
  · exact hwrite
  · exact hwrite.trans (nextSector_faultStays _)

theorem readData_faultStays (s : State) : FaultStays s (readData s) := by
  unfold readData
  dsimp only
  split
  · split
    · exact nextSector_faultStays (endBlock (transferOut s))
    · exact .refl s
  split
  · split <;> exact .refl s
  · exact .refl s

theorem writeData_faultStays (v : Byte) (s : State) : FaultStays s (writeData v s) := by
  unfold writeData
  dsimp only
  split
  · split
    · exact endWriteSector_faultStays (transferIn v (s.setFdc { s.fdc with dataRegister := v }))
    · exact .refl s
  · exact .refl s

/-- A transfer ended for a new image, and the image taken off. -/
theorem detach_faultStays (s : State) : FaultStays s ((endTransfer s).setFdc (endTransfer s).fdc.detached) := by
  have hend : FaultStays s (endTransfer s) := by
    obtain ⟨-, hend⟩ | ⟨-, -, hend⟩ | ⟨-, -, hend⟩ := endTransfer_cases s <;> rw [hend]
    · exact .refl s
    · exact .refl s
    · dsimp only
      split <;> exact flushPartial_faultStays s
  exact hend

theorem attachDisk_faultStays (id : Nat) (readOnly : Bool) (a b n : Nat) (s : State) :
    FaultStays s (attachDisk id readOnly a b n s).2 := by
  unfold attachDisk
  split
  · exact .refl s
  · exact .refl s

theorem setDiskImageFile_faultStays (file : Option Nat) (readOnly : Bool) (a b n : Nat) (s : State) :
    FaultStays s (setDiskImageFile file readOnly a b n s).2 := by
  have hdetach := detach_faultStays s
  unfold setDiskImageFile
  dsimp only
  generalize (endTransfer s).setFdc (endTransfer s).fdc.detached = s2 at hdetach
  split
  · exact hdetach
  next id =>
  have hfound := (findGeometry_keepsBlocks id a b n s2).faultStays
  split
  · next hf =>
    rw [hf] at hfound
    exact (hdetach.trans hfound).trans (attachDisk_faultStays _ _ _ _ _ _)
  · next hf =>
    rw [hf] at hfound
    exact hdetach.trans hfound

/-- Each operation of the FDC by what it is made of; the reset is the one that is shut out. -/
theorem faultStays_of_fdc_operation {i : Instr} (hb : subBlock i = .fdc) (hreset : i ≠ .resetFdc)
    (h : exec i s = .next t) : FaultStays s t := by
  cases i with
  | restore | seek | step | stepIn | stepOut | rdtrk | wrtrk =>
    cases h
    refine acceptCommand_returns_faultStays (fun u => ?_) s
    exact .refl u
  | rdsec _ hs _ pc =>
    cases h
    exact acceptCommand_returns_faultStays (cmdReadSector_faultStays hs pc) s
  | wrsec _ hs _ pc =>
    cases h
    exact acceptCommand_returns_faultStays (cmdWriteSector_faultStays hs pc) s
  | rdaddr =>
    cases h
    exact acceptCommand_returns_faultStays cmdReadAddress_faultStays s
  | forceint i3 i2 i1 i0 =>
    cases h
    exact acceptForce_faultStays (forceintByte i3 i2 i1 i0) i3 i2 s
  | cmd c | writeCommandRegister c =>
    cases h
    exact writeCommand_faultStays c s
  | rdr | readDataRegister =>
    cases h
    exact readData_faultStays s
  | wdr v | writeDataRegister v =>
    cases h
    exact writeData_faultStays v s
  | st | rtr | wtr | rsr | wsr | readStatusRegister | writeTrackRegister | readTrackRegister | writeSectorRegister
  | readSectorRegister | peekRegister | getHeadPosition | getInterruptRequest | getDataRequest | setSide =>
    cases h
    exact .refl s
  | setDiskImageFile file readOnly a b n =>
    cases h
    exact (setDiskImageFile_faultStays file readOnly a b n s).trans (keepsBlocks_finish _ _).faultStays
  | closeFdc =>
    cases h
    exact detach_faultStays s
  | resetFdc => exact absurd rfl hreset
  | _ => cases hb

/-- Whatever the instruction: one of another sub-block does not touch the FDC. -/
theorem faultStays_of_exec_eq {i : Instr} (hreset : i ≠ .resetFdc) (h : exec i s = .next t) : FaultStays s t := by
  by_cases hb : subBlock i = .fdc
  · exact faultStays_of_fdc_operation hb hreset h
  · exact faultStays_of_fdc_eq ((effect_of_exec_eq h).keepsOthers.fdc hb)

/-- Settles O34: the command refused, the transfer ended first, and the flag that only the reset clears. -/
theorem commandWhileBusy : Obligations.CommandWhileBusy := by
  refine ⟨fun c s hbusy hc => ⟨exec_cmd_of_fault hbusy hc, fun hp => ?_⟩,
    fun i s t hexec hfault hreset => faultStays_of_exec_eq hreset hexec hfault⟩
  exact ⟨_, exec_cmd_forceInterrupt s, exec_cmd_of_abort hbusy hc hp⟩

end Sys2Proof.Machine

/-! ### The state after construction

R600 of 70_reset_and_hazards.md fixes every field. The construct values of TBM and of the FDC meet their invariants whatever
the parameters are; only the track tables and the size table have to be read at their defaults. -/

namespace Sys2Proof.Machine

/-! #### The default parameters (00_scope.md R8) -/

theorem default_geometryRowsOk : GeometryRowsOk {} := by
  unfold GeometryRowsOk
  decide

/-- The tables of 10_state.md R22 and R23 at each of the 42 tracks, read together. -/
theorem default_track_bounds :
    ∀ t ≤ 42, 1 ≤ t →
      (17 ≤ sectorsPerTrack {} t ∧ sectorsPerTrack {} t ≤ 21) ∧ (36 ≤ t → sectorsPerTrack {} t = 17)
        ∧ trackSize {} t ≤ gcrBufCap := by
  decide

theorem default_trackTablesOk : TrackTablesOk {} := by
  refine ⟨fun t h1 h42 => ?_, by decide, fun t h36 h42 => ?_, fun t h1 h42 => ?_⟩
  · obtain ⟨hsectors, -, -⟩ := default_track_bounds t h42 h1
    exact hsectors
  · obtain ⟨-, hlast, -⟩ := default_track_bounds t h42 (by omega)
    exact hlast h36
  · obtain ⟨-, -, hsize⟩ := default_track_bounds t h42 h1
    exact hsize

/-! #### The construct values of TBM (10_state.md R26) and of the FDC (10_state.md R30) -/

theorem construct_tbmOk (p : Params) : TbmOk (Tbm.construct p) := ⟨nofun, fun _ => ⟨rfl, rfl, rfl⟩⟩

theorem Fdc.construct_resting (p : Params) : (Fdc.construct p).Resting := ⟨rfl, rfl, bit7Idle_getLsbD_zero p⟩

theorem Fdc.construct_geometryOk (p : Params) : FdcGeometryOk (Fdc.construct p) :=
  ⟨nofun, fun _ => ⟨rfl, rfl, rfl, rfl⟩⟩

theorem Fdc.construct_headOk (p : Params) : FdcHeadOk p (Fdc.construct p) := BitVec.le_def.2 (Nat.zero_le _)

/-! #### The whole machine -/

theorem reset_memoryInv : MemoryInv State.reset where
  tables := default_trackTablesOk
  stores := ⟨.nil, nofun⟩
  tbm := construct_buffersOk _
  buf := Memory.canonical_nil _
  deck := nofun

/-- Settles O60: the values of R600 field by field, then each invariant from the lemma about the construct values. -/
theorem resetOk : Obligations.ResetOk := by
  have hempty (a : Nat) : Memory.read [] a = 0 := rfl
  have hrest : State.reset.fdc.Resting := Fdc.construct_resting _
  obtain ⟨-, hmemory⟩ := memoryInv_iff.1 reset_memoryInv
  refine ⟨?tbm, badAllOk_read, hempty, hempty, ?fdc, hempty, ?tape, ?params, hmemory, ?paramsOk, ?tbmOk, ?transfer,
    ?geometry, ?write, ?head, ?deck⟩
  case tbm | fdc | tape | params => rfl
  case paramsOk => exact ⟨default_geometryRowsOk, default_trackTablesOk⟩
  case tbmOk => exact construct_tbmOk _
  case transfer => exact fdcTransferOk_of_resting hrest
  case geometry => exact Fdc.construct_geometryOk _
  case write => exact fdcWriteOk_of_not_busy hrest.busy
  case head => exact Fdc.construct_headOk _
  case deck => exact deckOk_of_none rfl

end Sys2Proof.Machine
